-- ==== Sys2Proof/Word.lean ====
section
/-!
DEFINITION. The word types of the machine (spec rules R6, R7, R75, R90).
-/

namespace Sys2Proof

/-- Eight bits: a key, a velocity, an instance number, a register number (R90, R91). -/
abbrev Byte := BitVec 8

/-- Thirty-two bits: a register, a register address, a binary32 bit pattern (R7, R71). -/
abbrev Word := BitVec 32

/-- Sixty-four bits: one command word (R90). -/
abbrev CmdWord := BitVec 64

/-- One stereo frame, or one cell of the mixer accumulator: two binary32 samples (R55, R244). -/
structure Frame where
  left  : Word
  right : Word
  deriving DecidableEq, Repr, Inhabited

end Sys2Proof
end

