-- ==== Sys2Proof/Syntax.lean ====
section
/-!
DEFINITION. The commands: one constructor per row of spec/opcode_table.json (R95).
-/

namespace Sys2Proof

/-- A command with its fields taken apart (R90, R91). -/
inductive Instr where
  /-- NOP (R125). -/
  | nop
  /-- KEY_ON k, key, vel (R130). -/
  | keyOn (inst key vel : Byte)
  /-- KEY_OFF k, key (R140). -/
  | keyOff (inst key : Byte)
  /-- WRITE_REG k, reg, value (R150). -/
  | writeReg (inst reg : Byte) (value : Word)
  deriving DecidableEq, Repr

end Sys2Proof
end

