-- ==== Sys2Proof/WellFormed.lean ====
section
/-!
DEFINITION. When a command names an instance its row allows (the column "INST legal values" of R95).
Every other field admits all its values, so the types say the rest.
-/

namespace Sys2Proof

/-- The INST range check of R95 and R98 step 2, for a machine with `nosc` oscillator instances. -/
def Instr.wellFormed (nosc : Nat) : Instr → Bool
  | .nop => true
  | .keyOn inst _ _ => decide (inst.toNat < nosc)
  | .keyOff inst _ => decide (inst.toNat < nosc)
  | .writeReg inst _ _ => decide (inst.toNat < nosc) || inst == 0xFF#8

end Sys2Proof
end

