-- ==== Sys2Proof/Decode.lean ====
section
/-!
DEFINITION. From command words and bytes to commands and back (30_encoding.md, R75, R90 to R99).
-/

namespace Sys2Proof

/-- Why a word is no command (R97). -/
inductive DecodeError where
  /-- The opcode is one of 0x04 .. 0xFF (R95). -/
  | reservedOpcode (opc : Byte)
  /-- A field that its row wants zero is not zero (R95, R96). -/
  | mustBeZero (opc : Byte)
  /-- Fewer than eight bytes: no whole command word (R75, R99). -/
  | truncated
  deriving DecidableEq, Repr

/-- OPC, bits 7:0 (R90). -/
def opcField (w : CmdWord) : Byte := w.extractLsb' 0 8
/-- A, bits 15:8 (R90). -/
def aField (w : CmdWord) : Byte := w.extractLsb' 8 8
/-- B, bits 23:16 (R90). -/
def bField (w : CmdWord) : Byte := w.extractLsb' 16 8
/-- INST, bits 31:24 (R90). -/
def instField (w : CmdWord) : Byte := w.extractLsb' 24 8
/-- DATA, bits 63:32 (R90). -/
def dataField (w : CmdWord) : Word := w.extractLsb' 32 32

/-- The match of R96. INST's range is no part of it. -/
def decodeWord (w : CmdWord) : Except DecodeError Instr :=
  if opcField w = 0x00#8 then
    if aField w = 0#8 ∧ bField w = 0#8 ∧ instField w = 0#8 ∧ dataField w = 0#32 then .ok .nop
    else .error (.mustBeZero (opcField w))
  else if opcField w = 0x01#8 then
    if dataField w = 0#32 then .ok (.keyOn (instField w) (aField w) (bField w))
    else .error (.mustBeZero (opcField w))
  else if opcField w = 0x02#8 then
    if bField w = 0#8 ∧ dataField w = 0#32 then .ok (.keyOff (instField w) (aField w))
    else .error (.mustBeZero (opcField w))
  else if opcField w = 0x03#8 then
    if bField w = 0#8 then .ok (.writeReg (instField w) (aField w) (dataField w))
    else .error (.mustBeZero (opcField w))
  else .error (.reservedOpcode (opcField w))

/-- The eight bytes of a command word, least significant first (R75). -/
def bytesOfWord (w : CmdWord) : List Byte :=
  (List.range 8).map fun i => w.extractLsb' (8 * i) 8

/-- The command word of eight bytes, least significant first (R75). -/
def wordOfBytes : List Byte → CmdWord
  | [] => 0#64
  | b :: bs => (wordOfBytes bs <<< 8) ||| b.zeroExtend 64

/-- One command from a byte stream, with the bytes after it (R75, R99). -/
def decode (bytes : List Byte) : Except DecodeError (Instr × List Byte) :=
  if bytes.length < 8 then .error .truncated
  else match decodeWord (wordOfBytes (bytes.take 8)) with
    | .ok i => .ok (i, bytes.drop 8)
    | .error e => .error e

/-- A command word from its fields (R90): {DATA, INST, B, A, OPC}. -/
def packFields (data : Word) (inst b a opc : Byte) : CmdWord :=
  data ++ inst ++ b ++ a ++ opc

/-- The word of a command (R105). -/
def encode : Instr → CmdWord
  | .nop => packFields 0#32 0#8 0#8 0#8 0x00#8
  | .keyOn inst key vel => packFields 0#32 inst vel key 0x01#8
  | .keyOff inst key => packFields 0#32 inst 0#8 key 0x02#8
  | .writeReg inst reg value => packFields value inst 0#8 reg 0x03#8

/-- What the decoder reads from a command whose bits are w, the bits from nbits up being zero. -/
def decodeTableWord (nbits w : Nat) : Option Instr :=
  match decode (bytesOfWord (BitVec.ofNat 64 (w % 2 ^ nbits))) with
  | .ok (i, _) => some i
  | .error _ => none

/-- The bits a row of the opcode table fixes (the masks of R96). -/
def rowMask : Instr → CmdWord
  | .nop => 0xFFFFFFFFFFFFFFFF#64
  | .keyOn .. => 0xFFFFFFFF000000FF#64
  | .keyOff .. => 0xFFFFFFFF00FF00FF#64
  | .writeReg .. => 0x0000000000FF00FF#64

/-- The values of those bits (the match column of R96). -/
def rowMatch : Instr → CmdWord
  | .nop => 0x0000000000000000#64
  | .keyOn .. => 0x0000000000000001#64
  | .keyOff .. => 0x0000000000000002#64
  | .writeReg .. => 0x0000000000000003#64

end Sys2Proof
end

