-- ==== Sys2Proof/Config.lean ====
section
/-!
DEFINITION. What is fixed before reset (R4): the parameters as plain data, and the values and
functions the spec leaves to the configuration or to the outside, as constants without a body.
-/

namespace Sys2Proof

/-- The waveforms in the order of their codes 0 .. 4 (R32). -/
inductive Waveform where
  | sine | square | triangle | sawtooth | noise
  deriving DecidableEq, Repr

/-- The writable registers of one oscillator instance, 0x00 .. 0x0B (R30). -/
structure Params where
  delay        : Word
  attack       : Word
  hold         : Word
  decay        : Word
  sustain      : Word
  release      : Word
  waveform     : Waveform
  pulseWidth   : Word
  unisonCount  : Word
  detuneDepth  : Word
  phaseSpread  : Word
  stereoWidth  : Word
  deriving DecidableEq, Repr

/-- A sound source that the mixer may ask (R4, R242). -/
inductive Source where
  | osc (k : Nat)
  | ext (j : Nat)
  deriving DecidableEq, Repr

/-- POLYBLEP_AFTER_COEFF (R4, R205, C1): 2 is the standard polynomial, 1 the text's. -/
inductive BlepCoeff where
  | one | two
  deriving DecidableEq, Repr

/-- Which SIN32 and EXP2_32 the block has (R9): the default, correctly rounded ones, or others. -/
inductive MathLib where
  | correctlyRounded | other
  deriving DecidableEq, Repr

/-- What the configuration fixes for one oscillator instance (R4): one NOISE_SEED per voice, whose
number is NVOICES(k), and RESET_PARAM of its registers. DESIGN CHOICE (log entry 13), safe: one list
gives both the number of voices and their seeds. -/
structure InstConfig where
  seeds       : List Word
  resetParams : Params
  deriving DecidableEq, Repr

/-- The parameters of R4. `instances` has one entry per oscillator instance, so its length is NOSC. -/
structure Config where
  instances         : List InstConfig
  next              : Nat
  registry          : List Source
  sampleRate        : Nat
  maxBlock          : Nat
  fifoDepth         : Nat
  sinkPresent       : Bool
  mathLib           : MathLib
  panTable          : List Word
  blepAfter         : BlepCoeff
  keyOffReleasesIdle : Bool
  resetVolume       : Word
  deriving DecidableEq, Repr

/-- NVOICES(k) (R4). -/
def InstConfig.nvoices (c : InstConfig) : Nat := c.seeds.length

/-- NOSC (R4). -/
def Config.nosc (c : Config) : Nat := c.instances.length

/-- SIN32 where the model does not fix it: another library or an infinite argument (R9), and, between
bounds, an argument whose rounding is not decided. No body: a claim holds for every function
(log entry 6), safe. -/
opaque Config.sin32 : Word → Word

/-- EXP2_32 where the model does not fix it, as for SIN32 (R9, log entry 6), safe. -/
opaque Config.exp2 : Word → Word

/-- EXT_SAMPLE(j, f, n) of the BLOCK with this serial number, where no sample was supplied
(R243, log entry 8): a free draw, safe. -/
opaque Config.extSample (serial j f n : Nat) : Frame

/-- The phase of position i of n where its offset overflows (R131, R134), before its bounds are applied
(log entry 20). -/
opaque Config.overflowPhase (spread : Word) (i n : Nat) : Word

/-- `f2i_trunc` outside the domain R8 gives it (log entry 9): free, safe. -/
opaque Config.truncOutside : Word → Int

end Sys2Proof
end

