-- ==== Sys2Proof/Machine/Binary32.lean ====
section
/-!
DEFINITION. The binary32 primitives of R8, from exact integers rounded once.

Every finite binary32 value is a whole number of units of 2^-149, the smallest subnormal. So the exact
operand is an integer, the exact result is an integer or a fraction of integers, and `roundUnits` rounds
that once, to nearest, ties to even. Special operands follow IEEE 754 (log entry 11).
-/

namespace Sys2Proof.Machine

/-- The canonical NaN (R8). -/
def nan32 : Word := 0x7FC00000#32
/-- +0.0. -/
def zero32 : Word := 0x00000000#32
/-- 1.0. -/
def one32 : Word := 0x3F800000#32

/-- Bit 31, the sign (R7). -/
def signBit (a : Word) : Bool := a.msb
/-- Bits 30:0, exponent and fraction (R7). Their order as numbers is the order of magnitudes. -/
def magBits (a : Word) : Nat := a.toNat % 2 ^ 31
/-- The pattern of an infinity without its sign. -/
def infMag : Nat := 0x7F800000

def isNaN (a : Word) : Bool := decide (infMag < magBits a)
def isInf (a : Word) : Bool := decide (magBits a = infMag)
def isZero (a : Word) : Bool := decide (magBits a = 0)
/-- Neither infinity nor NaN (R31). -/
def isFinite (a : Word) : Bool := decide (magBits a < infMag)

/-- The magnitude of the finite pattern p, in units of 2^-149 (R7). -/
def unitsOf (p : Nat) : Nat :=
  if p / 2 ^ 23 = 0 then p else (2 ^ 23 + p % 2 ^ 23) * 2 ^ (p / 2 ^ 23 - 1)

/-- The exact value of a finite pattern, in units of 2^-149 (R7). -/
def exactUnits (a : Word) : Int :=
  if signBit a then -(unitsOf (magBits a) : Int) else (unitsOf (magBits a) : Int)

/-- A pattern from its sign and its other bits. -/
def packSign (neg : Bool) (p : Nat) : Word :=
  BitVec.ofNat 32 (if neg then p + 2 ^ 31 else p)

/-- num/den units of 2^-149 rounded to the nearest binary32 magnitude, ties to even; too large a
value gives infinity (R8). The result is the pattern's bits 30:0. -/
def roundUnits (num den : Nat) : Nat :=
  let sh := Nat.log2 (num / den) - 23
  let d := den * 2 ^ sh
  let k := num / d
  let r := num % d
  let k' := if 2 * r > d ∨ (2 * r = d ∧ k % 2 = 1) then k + 1 else k
  min (sh * 2 ^ 23 + k') infMag

/-- A whole number of units rounded; `negZero` is the sign of an exact zero. -/
def roundInt (z : Int) (negZero : Bool) : Word :=
  if z = 0 then packSign negZero 0 else packSign (decide (z < 0)) (roundUnits z.natAbs 1)

/-- `neg32` (R8): the sign bit inverted. -/
def neg32 (a : Word) : Word := a ^^^ 0x80000000#32

/-- `add32` (R8). An exact zero sum is +0.0 unless both operands are negative. -/
def add32 (a b : Word) : Word :=
  if isNaN a || isNaN b then nan32
  else if isInf a then
    if isInf b && (signBit a != signBit b) then nan32 else a
  else if isInf b then b
  else roundInt (exactUnits a + exactUnits b) (signBit a && signBit b)

/-- `sub32` (R8). -/
def sub32 (a b : Word) : Word := add32 a (neg32 b)

/-- `mul32` (R8). -/
def mul32 (a b : Word) : Word :=
  if isNaN a || isNaN b then nan32
  else if isInf a || isInf b then
    if isZero a || isZero b then nan32 else packSign (signBit a != signBit b) infMag
  else packSign (signBit a != signBit b)
    (roundUnits (unitsOf (magBits a) * unitsOf (magBits b)) (2 ^ 149))

/-- `div32` (R8). -/
def div32 (a b : Word) : Word :=
  if isNaN a || isNaN b then nan32
  else if isInf a then
    if isInf b then nan32 else packSign (signBit a != signBit b) infMag
  else if isInf b then packSign (signBit a != signBit b) 0
  else if isZero b then
    if isZero a then nan32 else packSign (signBit a != signBit b) infMag
  else packSign (signBit a != signBit b)
    (roundUnits (unitsOf (magBits a) * 2 ^ 149) (unitsOf (magBits b)))

/-- The square root of n, digit by digit: r is its part above the lowest `bits` bits. -/
def isqrtFrom (n : Nat) : (bits : Nat) → (r : Nat) → Nat
  | 0, r => r
  | b + 1, r =>
    if (r + 2 ^ b) * (r + 2 ^ b) ≤ n then isqrtFrom n b (r + 2 ^ b) else isqrtFrom n b r

/-- The integer square root of n < 2^428. -/
def isqrt (n : Nat) : Nat := isqrtFrom n 214 0

/-- `sqrt32` (R8). The half added to an inexact integer root keeps it off every rounding boundary. -/
def sqrt32 (a : Word) : Word :=
  if isNaN a then nan32
  else if isZero a then a
  else if signBit a then nan32
  else if isInf a then a
  else
    let n := unitsOf (magBits a) * 2 ^ 149
    let r := isqrt n
    packSign false (roundUnits (2 * r + (if r * r = n then 0 else 1)) 2)

/-- `floor32` (R8): the greatest integral value <= a. -/
def floor32 (a : Word) : Word :=
  if isNaN a then nan32
  else if isInf a || isZero a then a
  else
    let u := unitsOf (magBits a)
    let k := if signBit a && decide (u % 2 ^ 149 ≠ 0) then u / 2 ^ 149 + 1 else u / 2 ^ 149
    packSign (signBit a) (roundUnits (k * 2 ^ 149) 1)

/-- `frac32` (R8). -/
def frac32 (a : Word) : Word := sub32 a (floor32 a)

/-- A number whose order is that of the values; both zeros give 0. -/
def orderKey (a : Word) : Int :=
  if signBit a then -(magBits a : Int) else (magBits a : Int)

/-- `lt32` (R8). -/
def lt32 (a b : Word) : Bool := !isNaN a && !isNaN b && decide (orderKey a < orderKey b)
/-- `le32` (R8). -/
def le32 (a b : Word) : Bool := !isNaN a && !isNaN b && decide (orderKey a ≤ orderKey b)
/-- `gt32` (R8). -/
def gt32 (a b : Word) : Bool := lt32 b a
/-- `ge32` (R8). -/
def ge32 (a b : Word) : Bool := le32 b a
/-- `eq32` (R8). -/
def eq32 (a b : Word) : Bool := !isNaN a && !isNaN b && decide (orderKey a = orderKey b)

/-- `min32` (R8). -/
def min32 (a b : Word) : Word := if lt32 b a then b else a

/-- `i2f32` (R8). -/
def i2f32 (n : Int) : Word := roundInt (n * 2 ^ 149) false

/-- `f2i_trunc` (R8), free outside the domain the rule gives it (log entry 9). -/
def f2iTrunc (a : Word) : Int :=
  if isFinite a && decide (unitsOf (magBits a) < 2 ^ 180) then
    if signBit a then -(unitsOf (magBits a) / 2 ^ 149 : Nat) else (unitsOf (magBits a) / 2 ^ 149 : Nat)
  else Config.truncOutside a

end Sys2Proof.Machine
end

