-- ==== Sys2Proof/Machine/Voice.lean ====
section
/-!
DEFINITION. One voice slot, one oscillator instance, the port operations and what they return
(R40, R30, R270).
-/

namespace Sys2Proof.Machine

/-- The envelope stages (R40). Stage code 7 is never held: it has no constructor. -/
inductive Stage where
  | idle | delay | attack | hold | decay | sustain | release
  deriving DecidableEq, Repr

/-- One voice slot V[k][v] (R40). -/
structure Voice where
  stage      : Stage
  stageTime  : Word
  volume     : Word
  key        : Byte
  actualNote : Word
  velocity   : Word
  panning    : Word
  phase      : Word
  noise      : Word
  deriving DecidableEq, Repr

/-- One oscillator instance: its writable registers (R30) and its pool of voices (R40). -/
structure Osc where
  params : Params
  voices : List Voice
  deriving DecidableEq, Repr

/-- A port operation, one atomic step of the block (R80, R270). -/
inductive PortOp where
  /-- Host PUSH(w) (R271). -/
  | push (w : CmdWord)
  /-- Host READ(a) (R272). -/
  | read (a : Word)
  /-- Host WRITE(a, d) (R273). -/
  | write (a d : Word)
  /-- Sink BLOCK(n) (R275). -/
  | block (n : Word)
  /-- RESET (R320). -/
  | reset
  deriving DecidableEq, Repr

/-- What a port operation returns: READ a word, BLOCK its frames in order (R244, R270, R278). -/
inductive Response where
  | word (w : Word)
  | frames (l : List Frame)
  deriving DecidableEq, Repr

/-- The error events, numbered by their STATUS bit (R27, R290). -/
inductive ErrorEvent where
  | cmdOvf | badCmd | badReg | badVal | poolDrop
  deriving DecidableEq, Repr

end Sys2Proof.Machine
end

