-- ==== Sys2Proof/Machine/Defaults.lean ====
section
/-!
DEFINITION. The default configuration (R4, R60, R219) and what reset leaves in each part of the state
(R60, R320).
-/

namespace Sys2Proof.Machine

/-- Entries 0 .. 63 of the default PAN_TABLE (R219). -/
def panRows0 : List Word :=
  [0x3F800000, 0x3F7FFEBF, 0x3F7FFAFD, 0x3F7FF4B9, 0x3F7FEBF3, 0x3F7FE0AC, 0x3F7FD2E4, 0x3F7FC29A,
   0x3F7FAFD0, 0x3F7F9A84, 0x3F7F82B8, 0x3F7F686C, 0x3F7F4B9F, 0x3F7F2C53, 0x3F7F0A86, 0x3F7EE63B,
   0x3F7EBF71, 0x3F7E9628, 0x3F7E6A61, 0x3F7E3C1D, 0x3F7E0B5B, 0x3F7DD81D, 0x3F7DA262, 0x3F7D6A2C,
   0x3F7D2F7A, 0x3F7CF24E, 0x3F7CB2A8, 0x3F7C7089, 0x3F7C2BF1, 0x3F7BE4E0, 0x3F7B9B59, 0x3F7B4F5B,
   0x3F7B00E6, 0x3F7AAFFD, 0x3F7A5CA0, 0x3F7A06CF, 0x3F79AE8B, 0x3F7953D6, 0x3F78F6AF, 0x3F789719,
   0x3F783513, 0x3F77D0A0, 0x3F7769BF, 0x3F770072, 0x3F7694BA, 0x3F762698, 0x3F75B60D, 0x3F75431B,
   0x3F74CDC1, 0x3F745602, 0x3F73DBDF, 0x3F735F58, 0x3F72E06F, 0x3F725F26, 0x3F71DB7D, 0x3F715576,
   0x3F70CD12, 0x3F704253, 0x3F6FB539, 0x3F6F25C6, 0x3F6E93FD, 0x3F6DFFDD, 0x3F6D6968, 0x3F6CD0A1]

/-- Entries 64 .. 127 of the default PAN_TABLE (R219). -/
def panRows64 : List Word :=
  [0x3F6C3588, 0x3F6B981F, 0x3F6AF867, 0x3F6A5663, 0x3F69B213, 0x3F690B7A, 0x3F686298, 0x3F67B770,
   0x3F670A03, 0x3F665A53, 0x3F65A862, 0x3F64F431, 0x3F643DC2, 0x3F638517, 0x3F62CA32, 0x3F620D15,
   0x3F614DC1, 0x3F608C38, 0x3F5FC87C, 0x3F5F0290, 0x3F5E3A74, 0x3F5D702C, 0x3F5CA3B9, 0x3F5BD51C,
   0x3F5B0459, 0x3F5A3170, 0x3F595C65, 0x3F588539, 0x3F57ABEE, 0x3F56D087, 0x3F55F305, 0x3F55136B,
   0x3F5431BB, 0x3F534DF7, 0x3F526822, 0x3F51803D, 0x3F50964B, 0x3F4FAA4E, 0x3F4EBC49, 0x3F4DCC3E,
   0x3F4CDA2F, 0x3F4BE61E, 0x3F4AF00E, 0x3F49F802, 0x3F48FDFB, 0x3F4801FD, 0x3F47040A, 0x3F460423,
   0x3F45024C, 0x3F43FE88, 0x3F42F8D8, 0x3F41F140, 0x3F40E7C1, 0x3F3FDC5F, 0x3F3ECF1C, 0x3F3DBFFB,
   0x3F3CAEFE, 0x3F3B9C29, 0x3F3A877D, 0x3F3970FD, 0x3F3858AD, 0x3F373E8F, 0x3F3622A5, 0x3F3504F3]

/-- Entries 128 .. 191 of the default PAN_TABLE (R219). -/
def panRows128 : List Word :=
  [0x3F33E57B, 0x3F32C441, 0x3F31A146, 0x3F307C8E, 0x3F2F561C, 0x3F2E2DF2, 0x3F2D0414, 0x3F2BD884,
   0x3F2AAB45, 0x3F297C5B, 0x3F284BC8, 0x3F27198F, 0x3F25E5B3, 0x3F24B037, 0x3F23791F, 0x3F22406D,
   0x3F210624, 0x3F1FCA47, 0x3F1E8CDA, 0x3F1D4DE0, 0x3F1C0D5C, 0x3F1ACB50, 0x3F1987C0, 0x3F1842B0,
   0x3F16FC22, 0x3F15B419, 0x3F146A99, 0x3F131FA5, 0x3F11D341, 0x3F10856F, 0x3F0F3633, 0x3F0DE590,
   0x3F0C9389, 0x3F0B4022, 0x3F09EB5D, 0x3F08953F, 0x3F073DCB, 0x3F05E504, 0x3F048AED, 0x3F032F8A,
   0x3F01D2DF, 0x3F0074ED, 0x3EFE2B75, 0x3EFB6A91, 0x3EF8A738, 0x3EF5E16F, 0x3EF3193E, 0x3EF04EAC,
   0x3EED81BF, 0x3EEAB280, 0x3EE7E0F3, 0x3EE50D22, 0x3EE23713, 0x3EDF5ECC, 0x3EDC8456, 0x3ED9A7B7,
   0x3ED6C8F7, 0x3ED3E81C, 0x3ED1052E, 0x3ECE2034, 0x3ECB3936, 0x3EC8503A, 0x3EC56548, 0x3EC27868]

/-- Entries 192 .. 254 of the default PAN_TABLE (R219). -/
def panRows192 : List Word :=
  [0x3EBF899F, 0x3EBC98F7, 0x3EB9A677, 0x3EB6B224, 0x3EB3BC08, 0x3EB0C42A, 0x3EADCA90, 0x3EAACF43,
   0x3EA7D24A, 0x3EA4D3AC, 0x3EA1D371, 0x3E9ED1A0, 0x3E9BCE42, 0x3E98C95C, 0x3E95C2F8, 0x3E92BB1D,
   0x3E8FB1D1, 0x3E8CA71E, 0x3E899B0A, 0x3E868D9D, 0x3E837EDF, 0x3E806ED7, 0x3E7ABB1B, 0x3E749614,
   0x3E6E6EA7, 0x3E6844E5, 0x3E6218DC, 0x3E5BEA9D, 0x3E55BA37, 0x3E4F87B9, 0x3E495333, 0x3E431CB4,
   0x3E3CE44C, 0x3E36AA0B, 0x3E306E00, 0x3E2A303B, 0x3E23F0CB, 0x3E1DAFC0, 0x3E176D2A, 0x3E112919,
   0x3E0AE39B, 0x3E049CC2, 0x3DFCA939, 0x3DF01674, 0x3DE38155, 0x3DD6E9FC, 0x3DCA5089, 0x3DBDB51A,
   0x3DB117D0, 0x3DA478CA, 0x3D97D828, 0x3D8B3609, 0x3D7D251B, 0x3D63DBA9, 0x3D4A8FFC, 0x3D314253,
   0x3D17F2EE, 0x3CFD4419, 0x3CCA9FDB, 0x3C97F9A0, 0x3C4AA3D2, 0x3BCAA4D0, 0x00000000]

/-- The default PAN_TABLE (R219). -/
def defaultPanTable : List Word := panRows0 ++ panRows64 ++ panRows128 ++ panRows192

/-- The default NOISE_SEED(k, v), the same for every k (R4). -/
def defaultSeed (v : Nat) : Word := BitVec.ofNat 32 (2463534242 + v)

/-- The default reset values of the registers of an instance (R60). -/
def defaultParams : Params where
  delay        := zero32
  attack       := zero32
  hold         := zero32
  decay        := zero32
  sustain      := one32
  release      := zero32
  waveform     := .sine
  pulseWidth   := 0x3F000000#32
  unisonCount  := 1#32
  detuneDepth  := zero32
  phaseSpread  := zero32
  stereoWidth  := zero32

/-- A default instance with n voices (R4). -/
def defaultInstance (n : Nat) : InstConfig where
  seeds       := (List.range n).map defaultSeed
  resetParams := defaultParams

/-- The default configuration (R4). -/
def defaultConfig : Config where
  instances          := [defaultInstance 64]
  next               := 0
  registry           := [.osc 0]
  sampleRate         := 44100
  maxBlock           := 4096
  fifoDepth          := 256
  sinkPresent        := true
  mathLib            := .correctlyRounded
  panTable           := defaultPanTable
  blepAfter          := .two
  keyOffReleasesIdle := false
  resetVolume        := one32

/-- A voice after reset (R60, R320): idle, zeros, and its seed. -/
def resetVoice (seed : Word) : Voice where
  stage      := .idle
  stageTime  := zero32
  volume     := zero32
  key        := 0#8
  actualNote := zero32
  velocity   := zero32
  panning    := zero32
  phase      := zero32
  noise      := seed

/-- An instance after reset (R60, R320): RESET_PARAM, and one reset voice per seed. -/
def resetOsc (c : InstConfig) : Osc where
  params := c.resetParams
  voices := c.seeds.map resetVoice

end Sys2Proof.Machine
end

