-- ==== Sys2Proof/Machine/State.lean ====
section
/-!
DEFINITION. Everything the spec gives the machine, as plain data, and why a step can stop.
-/

namespace Sys2Proof.Machine

/-- The state. The first seven fields are the block's own (10_state.md); the last four are the
environment: what is asked of the block, what it answered, and what external sources supply. -/
structure State where
  /-- The parameters (R4). Fixed: no step changes them (log entry 1). -/
  cfg          : Config
  /-- STATUS[4:0], the sticky bits (R27). INERT and the reserved bits are computed (log entry 12). -/
  sticky       : BitVec 5
  /-- The command FIFO, head first (R50). -/
  fifo         : List CmdWord
  /-- GLOBAL_VOLUME (R25, R26). -/
  globalVolume : Word
  /-- BLOCK_TIME (R25, R246). -/
  blockTime    : Word
  /-- FRAME_COUNT (R247), read as two halves (R25, R78). -/
  frameCount   : BitVec 64
  /-- The oscillator instances (R30, R40). -/
  oscs         : List Osc
  /-- The port operations to come, in the total order of R80 (log entry 2). -/
  pending      : List PortOp
  /-- What READs and BLOCKs have returned, oldest first (R278, log entry 3). -/
  obs          : List Response
  /-- The external-source stream (R70): the frames source j will supply, oldest first (log entry 8). -/
  extIn        : List (List Frame)
  /-- How many BLOCKs have run; it names a fresh free draw (log entry 8). -/
  extSerial    : Nat
  deriving DecidableEq, Repr

/-- The faults. There are none: the block has no traps and no halt state (R278, R295). An error is a
sticky STATUS bit (R290) and the block goes on. Safe (log entry 16). -/
inductive Fault where
  deriving DecidableEq, Repr

/-- Why there is no step. -/
inductive Refusal where
  /-- Raised by exec for a command without a meaning; no arm uses it. Safe. -/
  | notModelled (mnemonic : String)
  /-- Raised by step for an ill-formed configuration: "there is no state and no step" (R5). Safe. -/
  | illFormedConfig
  /-- Raised by step for BLOCK(n) with n > MAX_BLOCK, which "has no step" (R276). Safe. -/
  | blockTooLong
  /-- Raised by step for a BLOCK with SINK_PRESENT false: "no BLOCK step ever happens" (R250, R276). Safe. -/
  | sinkAbsent
  deriving DecidableEq, Repr

/-- The block right after RESET under a configuration (R60, R320). The environment's fields are
empty (log entry 5). -/
def State.resetWith (c : Config) : State where
  cfg          := c
  sticky       := 0#5
  fifo         := []
  globalVolume := c.resetVolume
  blockTime    := zero32
  frameCount   := 0#64
  oscs         := c.instances.map resetOsc
  pending      := []
  obs          := []
  extIn        := []
  extSerial    := 0

/-- The machine right after reset, under the default configuration (R4, R60). -/
def State.reset : State := State.resetWith defaultConfig

end Sys2Proof.Machine
end

