-- ==== Sys2Proof/Machine/Flags.lean ====
section
/-!
DEFINITION. The STATUS register (R27, R273, R290).
-/

namespace Sys2Proof.Machine

/-- The STATUS bit number of an error, which is its code (R27, R290). -/
def errorCode : ErrorEvent → Nat
  | .cmdOvf => 0
  | .badCmd => 1
  | .badReg => 2
  | .badVal => 3
  | .poolDrop => 4

/-- The sticky bits with an error's bit set (R290). -/
def setSticky (sticky : BitVec 5) (e : ErrorEvent) : BitVec 5 :=
  sticky ||| (1#5 <<< errorCode e)

/-- The sticky bits after a write of d: a one clears, a zero keeps (R273). -/
def clearSticky (sticky : BitVec 5) (d : Word) : BitVec 5 :=
  sticky &&& ~~~(d.extractLsb' 0 5)

/-- STATUS as it is read (R27): bits 4:0 sticky, bit 5 INERT, the rest 0. -/
def statusWord (sinkPresent : Bool) (sticky : BitVec 5) : Word :=
  0#26 ++ (if sinkPresent then 0#1 else 1#1) ++ sticky

end Sys2Proof.Machine
end

