-- ==== Sys2Proof/Machine/Operands.lean ====
section
/-!
DEFINITION. Register addresses, register numbers, and the legal values of registers and parameters
(R4, R5, R25, R30, R31, R71, R100, R151).
-/

namespace Sys2Proof.Machine

/-- INST of a register address, A[31:24] (R71). -/
def addrInst (a : Word) : Byte := a.extractLsb' 24 8
/-- VSEL of a register address, A[23:8] (R71). -/
def addrVsel (a : Word) : BitVec 16 := a.extractLsb' 8 16
/-- REG of a register address, A[7:0] (R71). -/
def addrReg (a : Word) : Byte := a.extractLsb' 0 8

/-- The instance number of the global registers (R25, R71). -/
def globalInst : Byte := 0xFF#8
/-- The register number of GLOBAL_VOLUME (R25, R100). -/
def globalVolumeReg : Byte := 0x03#8

/-- The registers of an instance that WRITE_REG may write (R100). -/
inductive ParamReg where
  | delay | attack | hold | decay | sustain | release
  | waveform | pulseWidth | unisonCount | detuneDepth | phaseSpread | stereoWidth
  deriving DecidableEq, Repr

/-- The writable register with this number, 0x00 .. 0x0B (R30, R100). -/
def paramReg? (reg : Byte) : Option ParamReg :=
  match reg.toNat with
  | 0x00 => some .delay
  | 0x01 => some .attack
  | 0x02 => some .hold
  | 0x03 => some .decay
  | 0x04 => some .sustain
  | 0x05 => some .release
  | 0x06 => some .waveform
  | 0x07 => some .pulseWidth
  | 0x08 => some .unisonCount
  | 0x09 => some .detuneDepth
  | 0x0A => some .phaseSpread
  | 0x0B => some .stereoWidth
  | _ => none

/-- WAVEFORM codes (R32). -/
def waveformCode : Waveform → Word
  | .sine => 0#32
  | .square => 1#32
  | .triangle => 2#32
  | .sawtooth => 3#32
  | .noise => 4#32

/-- The waveform of a code (R32). -/
def waveform? (w : Word) : Option Waveform :=
  match w.toNat with
  | 0 => some .sine
  | 1 => some .square
  | 2 => some .triangle
  | 3 => some .sawtooth
  | 4 => some .noise
  | _ => none

/-- The value of a writable register (R30). -/
def getParam (p : Params) : ParamReg → Word
  | .delay => p.delay
  | .attack => p.attack
  | .hold => p.hold
  | .decay => p.decay
  | .sustain => p.sustain
  | .release => p.release
  | .waveform => waveformCode p.waveform
  | .pulseWidth => p.pulseWidth
  | .unisonCount => p.unisonCount
  | .detuneDepth => p.detuneDepth
  | .phaseSpread => p.phaseSpread
  | .stereoWidth => p.stereoWidth

/-- A register written (R150). Only a legal value is ever written (R151), so WAVEFORM's code names a
waveform. -/
def setParam (p : Params) (r : ParamReg) (x : Word) : Params :=
  match r with
  | .delay => { p with delay := x }
  | .attack => { p with attack := x }
  | .hold => { p with hold := x }
  | .decay => { p with decay := x }
  | .sustain => { p with sustain := x }
  | .release => { p with release := x }
  | .waveform => { p with waveform := (waveform? x).getD p.waveform }
  | .pulseWidth => { p with pulseWidth := x }
  | .unisonCount => { p with unisonCount := x }
  | .detuneDepth => { p with detuneDepth := x }
  | .phaseSpread => { p with phaseSpread := x }
  | .stereoWidth => { p with stereoWidth := x }

/-- lo <= x <= hi, with both bounds binary32 values; a NaN is in no range (R31). -/
def inRange32 (lo hi x : Word) : Bool := ge32 x lo && le32 x hi

/-- The legal values of a register of an instance (R31, R151). -/
def legalValue (r : ParamReg) (x : Word) : Bool :=
  match r with
  | .delay | .attack | .hold | .decay | .release => isFinite x && ge32 x zero32
  | .sustain | .pulseWidth => inRange32 zero32 one32 x
  | .waveform => decide (x.toNat ≤ 4)
  | .unisonCount => decide (1 ≤ x.toNat) && decide (x.toNat ≤ 255)
  | .detuneDepth => isFinite x && inRange32 0xC3800000#32 0x43800000#32 x
  | .phaseSpread => isFinite x
  | .stereoWidth => inRange32 0xBF800000#32 one32 x

/-- The legal values of GLOBAL_VOLUME: 0.0 .. 65536.0 (R31). -/
def legalVolume (x : Word) : Bool := inRange32 zero32 0x47800000#32 x

/-- Every register of the set holds a legal value (R31). -/
def paramsLegal (p : Params) : Bool :=
  [ParamReg.delay, .attack, .hold, .decay, .sustain, .release, .waveform, .pulseWidth, .unisonCount,
   .detuneDepth, .phaseSpread, .stereoWidth].all fun r => legalValue r (getParam p r)

/-- No source is named twice (R4, R5, R251). -/
def noRepeats : List Source → Bool
  | [] => true
  | x :: xs => !xs.contains x && noRepeats xs

/-- The source exists (R5). -/
def sourceExists (c : Config) : Source → Bool
  | .osc k => decide (k < c.nosc)
  | .ext j => decide (j < c.next)

/-- One instance's parameters are in range: 1 .. 65535 voices, nonzero seeds, legal reset values (R4). -/
def instanceWellFormed (i : InstConfig) : Bool :=
  decide (1 ≤ i.nvoices) && decide (i.nvoices ≤ 65535) && i.seeds.all (fun x => decide (x ≠ 0#32))
    && paramsLegal i.resetParams

/-- The instances and the counts of sources are in range (R4). -/
def sourcesWellFormed (c : Config) : Bool :=
  decide (1 ≤ c.nosc) && (decide (c.nosc ≤ 255) && (decide (c.next ≤ 255) &&
    c.instances.all instanceWellFormed))

/-- REGISTRY names existing sources, each at most once (R5). -/
def registryWellFormed (c : Config) : Bool :=
  noRepeats c.registry && c.registry.all (sourceExists c)

/-- SAMPLE_RATE, MAX_BLOCK and CMD_FIFO_DEPTH are in range (R4). -/
def sizesWellFormed (c : Config) : Bool :=
  decide (1 ≤ c.sampleRate) && (decide (c.sampleRate ≤ 16777216) &&
    (decide (1 ≤ c.maxBlock) && (decide (c.maxBlock ≤ 2147483647) &&
      (decide (1 ≤ c.fifoDepth) && decide (c.fifoDepth ≤ 65535)))))

/-- PAN_TABLE has 255 entries in [0, 1], and GLOBAL_VOLUME's reset value is legal (R4). -/
def valuesWellFormed (c : Config) : Bool :=
  decide (c.panTable.length = 255) && (c.panTable.all (inRange32 zero32 one32) &&
    legalVolume c.resetVolume)

/-- The configuration is well formed (R4, R5). -/
def configWellFormed (c : Config) : Bool :=
  sourcesWellFormed c && (registryWellFormed c && (sizesWellFormed c && valuesWellFormed c))

end Sys2Proof.Machine
end

