-- ==== Sys2Proof/Machine/Ops.lean ====
section
/-!
DEFINITION. The named operations over the state: raising an error and clearing it, the register
space, the FIFO and the instances. The block has no traps (R294 to R297), so `raise` is the whole of
taking an exception and `clearErrors` the only way back (R290, R296).
-/

namespace Sys2Proof.Machine

/-- `raise` (R10, R290): the error's STATUS bit is set; nothing else happens. -/
def raise (e : ErrorEvent) (s : State) : State := { s with sticky := setSticky s.sticky e }

/-- The effect of a WRITE of d to STATUS (R273, R296). -/
def clearErrors (d : Word) (s : State) : State := { s with sticky := clearSticky s.sticky d }

/-- Instance k with f applied (R300: no other instance changes). -/
def modifyOsc (k : Nat) (f : Osc → Osc) (s : State) : State := { s with oscs := s.oscs.modify k f }

/-- GLOBAL_VOLUME written (R150). -/
def setGlobalVolume (x : Word) (s : State) : State := { s with globalVolume := x }

/-- One more word at the FIFO's tail (R50, R271). -/
def pushTail (w : CmdWord) (s : State) : State := { s with fifo := s.fifo ++ [w] }

/-- The FIFO's contents replaced: by what is left after a word is taken (R240). -/
def setFifo (ws : List CmdWord) (s : State) : State := { s with fifo := ws }

/-- One more returned value (R278). -/
def respond (r : Response) (s : State) : State := { s with obs := s.obs ++ [r] }

/-- The register sets a command may name: 0 .. NOSC-1 (R73, R95). -/
def instInRange (inst : Byte) (s : State) : Bool := decide (inst.toNat < s.cfg.nosc)

/-- NVOICES(k) (R4, R30); an instance that does not exist has none. -/
def nvoicesOf (s : State) (k : Nat) : Nat := (s.cfg.instances[k]?.map InstConfig.nvoices).getD 0

/-- A voice that is not free (R42). -/
def isActive (v : Voice) : Bool := decide (v.stage ≠ .idle)

/-- ACTIVE_COUNT (R30). -/
def activeCount (o : Osc) : Nat := o.voices.countP isActive

/-- The stage codes of the voice window (R40). -/
def stageCode : Stage → Word
  | .idle => 0#32
  | .delay => 1#32
  | .attack => 2#32
  | .hold => 3#32
  | .decay => 4#32
  | .sustain => 5#32
  | .release => 6#32

/-- A field of the voice window, and 0 for every other register number (R30, R41, R74). -/
def voiceField (v : Voice) (reg : Byte) : Word :=
  match reg.toNat with
  | 0x80 => stageCode v.stage
  | 0x81 => v.stageTime
  | 0x82 => v.volume
  | 0x83 => v.key.zeroExtend 32
  | 0x84 => v.actualNote
  | 0x85 => v.velocity
  | 0x86 => v.panning
  | 0x87 => v.phase
  | 0x88 => v.noise
  | _ => 0#32

/-- A global register (R25); a reserved number reads 0 (R74). -/
def readGlobal (s : State) (reg : Byte) : Word :=
  match reg.toNat with
  | 0x00 => statusWord s.cfg.sinkPresent s.sticky
  | 0x01 => BitVec.ofNat 32 s.fifo.length
  | 0x02 => BitVec.ofNat 32 s.cfg.sampleRate
  | 0x03 => s.globalVolume
  | 0x04 => s.blockTime
  | 0x05 => s.frameCount.extractLsb' 0 32
  | 0x06 => s.frameCount.extractLsb' 32 32
  | 0x07 => BitVec.ofNat 16 s.cfg.fifoDepth ++ BitVec.ofNat 8 s.cfg.next ++ BitVec.ofNat 8 s.cfg.nosc
  | 0x08 => BitVec.ofNat 32 s.cfg.maxBlock
  | _ => 0#32

/-- A register of an instance with `nv` voices (R30, R41); a reserved number, and a voice window
past the pool, read 0 (R74). -/
def readOsc (nv : Nat) (o : Osc) (vsel : Nat) (reg : Byte) : Word :=
  match paramReg? reg with
  | some r => getParam o.params r
  | none =>
    if reg = 0x0C#8 then BitVec.ofNat 32 nv
    else if reg = 0x0D#8 then BitVec.ofNat 32 (activeCount o)
    else match o.voices[vsel]? with
      | some v => voiceField v reg
      | none => 0#32

/-- `MemRead(a, 4)` (R272): the register that a names, or 0 (R73, R74). -/
def memRead (s : State) (a : Word) : Word :=
  if addrInst a = globalInst then readGlobal s (addrReg a)
  else if instInRange (addrInst a) s then
    match s.oscs[(addrInst a).toNat]? with
    | some o => readOsc (nvoicesOf s (addrInst a).toNat) o (addrVsel a).toNat (addrReg a)
    | none => 0#32
  else 0#32

/-- `MemWrite(a, 4, d)` (R273): only the global STATUS register takes a host write. -/
def memWrite (a d : Word) (s : State) : State :=
  if addrInst a = globalInst ∧ addrReg a = 0x00#8 then clearErrors d s else s

end Sys2Proof.Machine
end

