-- ==== Sys2Proof/Machine/Commands.lean ====
section
/-!
DEFINITION. The meanings of the four commands (40_commands.md), with the INST check of R98 step 2,
which each command makes for itself.
-/

namespace Sys2Proof.Machine

/-- The result type of a command. -/
abbrev Result := Host.Outcome State Fault Refusal

/-- NOP (R125). -/
def execNop (s : State) : Result := .next s

/-- `velocity_scale(vel, N)` (R132). -/
def velocityScale (vel : Byte) (n : Nat) : Word :=
  div32 (div32 (i2f32 vel.toNat) 0x42FE0000#32) (sqrt32 (i2f32 n))

/-- start + i * (span / (N-1)): position i of a linear span (R131). -/
def spread (start span : Word) (i n : Nat) : Word :=
  add32 start (mul32 (i2f32 i) (div32 span (i2f32 ((n : Int) - 1))))

/-- The note offset of position i of N (R131). -/
def noteOffset (p : Params) (i n : Nat) : Word :=
  if n = 1 then zero32
  else spread (neg32 (mul32 p.detuneDepth 0x3F000000#32)) p.detuneDepth i n

/-- The phase offset of position i of N, not yet wrapped (R131). -/
def phaseOffset (p : Params) (i n : Nat) : Word :=
  if n = 1 then zero32
  else spread (neg32 (mul32 p.phaseSpread 0x3F000000#32)) p.phaseSpread i n

/-- The pan of position i of N (R131). -/
def panOffset (p : Params) (i n : Nat) : Word :=
  if n = 1 then zero32
  else spread (neg32 p.stereoWidth) (mul32 0x40000000#32 p.stereoWidth) i n

/-- `first_idle(k)` (R133): the lowest index of an idle voice. -/
def firstIdle (vs : List Voice) : Option Nat := vs.findIdx? fun v => !isActive v

/-- `place(k, v, key, note, nvel, pan, ph)` (R134), on the voice taken. The noise state is kept. -/
def placeVoice (key : Byte) (note nvel pan ph : Word) (v : Voice) : Voice :=
  { v with
    key := key, actualNote := note, velocity := nvel, panning := pan, phase := ph
    stage := .delay, stageTime := zero32, volume := zero32 }

/-- A free value kept in [0, 1]; +0.0 where it is not in it. -/
def unitFree (free : Word) : Word := if free.toNat ≤ one32.toNat then free else zero32

/-- The phase of position i of N (R130, R131): the offset wrapped by `frac32`. The wrap of an infinite
offset is a free value in [0, 1]: `frac32` would make it NaN, which R8 (of a >= 0 it "lies in
[0,1)"), R134, R203, R233 and D3 exclude. DESIGN CHOICE (log entry 20). -/
def wrappedPhase (p : Params) (i n : Nat) : Word :=
  if isInf (phaseOffset p i n) then unitFree (Config.overflowPhase p.phaseSpread i n)
  else frac32 (phaseOffset p i n)

/-- What position i of N of a KEY_ON puts on the voice it takes (R130, R131, R132, R134). -/
def placeUnison (p : Params) (key vel : Byte) (n i : Nat) (v : Voice) : Voice :=
  placeVoice key (add32 (i2f32 key.toNat) (noteOffset p i n)) (velocityScale vel n) (panOffset p i n)
    (wrappedPhase p i n) v

/-- The loop of R130 from position i with `left` positions to go: the pool it leaves, and whether a
position was dropped. -/
def placeFrom (p : Params) (key vel : Byte) (n : Nat) :
    (left i : Nat) → List Voice → List Voice × Bool
  | 0, _, vs => (vs, false)
  | left + 1, i, vs =>
    match firstIdle vs with
    | none => (vs, true)
    | some j => placeFrom p key vel n left (i + 1) (vs.modify j (placeUnison p key vel n i))

/-- The pool and the drop flag of a whole KEY_ON on an instance (R130). -/
def keyOnPool (key vel : Byte) (o : Osc) : List Voice × Bool :=
  placeFrom o.params key vel o.params.unisonCount.toNat o.params.unisonCount.toNat 0 o.voices

/-- KEY_ON on instance k (R130). -/
def keyOnInstance (k : Nat) (key vel : Byte) (s : State) : State :=
  match s.oscs[k]? with
  | none => s
  | some o =>
    let r := keyOnPool key vel o
    let s1 := modifyOsc k (fun o => { o with voices := r.1 }) s
    if r.2 then raise .poolDrop s1 else s1

/-- KEY_ON (R130 to R135). -/
def execKeyOn (inst key vel : Byte) (s : State) : Result :=
  if instInRange inst s then .next (keyOnInstance inst.toNat key vel s)
  else .next (raise .badCmd s)

/-- One voice under a KEY_OFF of its instance (R140). -/
def releaseVoice (releasesIdle : Bool) (key : Byte) (v : Voice) : Voice :=
  if v.key = key ∧ (v.stage ≠ .idle ∨ releasesIdle = true) then
    { v with stage := .release, stageTime := zero32 }
  else v

/-- KEY_OFF (R140, R141). -/
def execKeyOff (inst key : Byte) (s : State) : Result :=
  if instInRange inst s then
    .next (modifyOsc inst.toNat
      (fun o => { o with voices := o.voices.map (releaseVoice s.cfg.keyOffReleasesIdle key) }) s)
  else .next (raise .badCmd s)

/-- WRITE_REG to the global registers (R100, R150): GLOBAL_VOLUME is the only one. -/
def writeGlobal (reg : Byte) (value : Word) (s : State) : State :=
  if reg = globalVolumeReg then
    if legalVolume value then setGlobalVolume value s else raise .badVal s
  else raise .badReg s

/-- WRITE_REG to instance k (R100, R150). -/
def writeInstance (k : Nat) (reg : Byte) (value : Word) (s : State) : State :=
  match paramReg? reg with
  | none => raise .badReg s
  | some r =>
    if legalValue r value then modifyOsc k (fun o => { o with params := setParam o.params r value }) s
    else raise .badVal s

/-- WRITE_REG (R98, R150 to R152). -/
def execWriteReg (inst reg : Byte) (value : Word) (s : State) : Result :=
  if inst = globalInst then .next (writeGlobal reg value s)
  else if instInRange inst s then .next (writeInstance inst.toNat reg value s)
  else .next (raise .badCmd s)

end Sys2Proof.Machine
end

