-- ==== Sys2Proof/Machine/Dispatch.lean ====
section
/-!
DEFINITION. Which meaning each command has: one arm per constructor of Instr.
-/

namespace Sys2Proof.Machine

/-- The execution of one drained command that decoded (R120). -/
def exec (i : Instr) (s : State) : Host.Outcome State Fault Refusal :=
  match i with
  | .nop => Sys2Proof.Machine.execNop s
  | .keyOn inst key vel => Sys2Proof.Machine.execKeyOn inst key vel s
  | .keyOff inst key => Sys2Proof.Machine.execKeyOff inst key s
  | .writeReg inst reg value => Sys2Proof.Machine.execWriteReg inst reg value s

end Sys2Proof.Machine
end

