-- ==== Sys2Proof/Machine/Envelope.lean ====
section
/-!
DEFINITION. The envelope tick (41_envelope.md). Each stage acts only if the voice is in that stage
when its turn comes, so one tick can fall through several stages (R161).
-/

namespace Sys2Proof.Machine

/-- A voice whose note has ended: idle, volume and stage time +0.0 (R167, R168). -/
def endNote (v : Voice) : Voice :=
  { v with volume := zero32, stageTime := zero32, stage := .idle }

/-- A stage left at its length: the consumed time is subtracted (R161). -/
def leaveStage (length : Word) (next : Stage) (v : Voice) : Voice :=
  { v with stageTime := sub32 v.stageTime length, stage := next }

/-- DELAY (R163). -/
def tickDelay (p : Params) (v : Voice) : Voice :=
  if v.stage = .delay then
    let v1 := { v with volume := zero32 }
    if ge32 v1.stageTime p.delay then leaveStage p.delay .attack v1 else v1
  else v

/-- ATTACK (R164). -/
def tickAttack (p : Params) (v : Voice) : Voice :=
  if v.stage = .attack then
    if eq32 p.attack zero32 then { v with stage := .hold }
    else
      let v1 := { v with volume := min32 (div32 v.stageTime p.attack) one32 }
      if ge32 v1.stageTime p.attack then leaveStage p.attack .hold v1 else v1
  else v

/-- HOLD (R165). -/
def tickHold (p : Params) (v : Voice) : Voice :=
  if v.stage = .hold then
    let v1 := { v with volume := one32 }
    if ge32 v1.stageTime p.hold then leaveStage p.hold .decay v1 else v1
  else v

/-- DECAY (R166). -/
def tickDecay (p : Params) (v : Voice) : Voice :=
  if v.stage = .decay then
    if eq32 p.decay zero32 then { v with stage := .sustain }
    else
      let v1 := { v with
        volume := add32 one32 (mul32 (sub32 p.sustain one32) (div32 v.stageTime p.decay)) }
      if ge32 v1.stageTime p.decay then leaveStage p.decay .sustain v1 else v1
  else v

/-- SUSTAIN (R167). -/
def tickSustain (p : Params) (v : Voice) : Voice :=
  if v.stage = .sustain then
    if eq32 p.sustain zero32 then endNote v else { v with volume := p.sustain }
  else v

/-- RELEASE (R168). -/
def tickRelease (p : Params) (dt : Word) (v : Voice) : Voice :=
  if v.stage = .release then
    if eq32 p.release zero32 then endNote v
    else
      let v1 := { v with volume := sub32 v.volume (mul32 p.release dt) }
      if le32 v1.volume zero32 then endNote v1 else v1
  else v

/-- `tick(env, dt, P)` (R161). -/
def tick (p : Params) (dt : Word) (v : Voice) : Voice :=
  if v.stage = .idle then { v with volume := zero32 }
  else
    tickRelease p dt (tickSustain p (tickDecay p (tickHold p (tickAttack p (tickDelay p
      { v with stageTime := add32 v.stageTime dt })))))

end Sys2Proof.Machine
end

