-- ==== Sys2Proof/Machine/Transcendental.lean ====
section
/-!
DEFINITION. SIN32 and EXP2_32 (R9). The default library rounds the exact real value correctly. It is
computed in integers: a value scaled by 2^320, with a bound on its error. If both ends of the error
interval round to one binary32 value, that is the correctly rounded value; if they did not, the value
would stay free between the two (log entry 6).
-/

namespace Sys2Proof.Machine

/-- Fraction bits of the fixed-point values below. -/
def fixBits : Nat := 320

/-- An upper bound, in units of 2^-320, on the error of `sinFix`, `cosFix` and `exp2Fix`. The truncated series,
one truncation per term and the argument's error together stay below 2^10 units. -/
def fixError : Nat := 2 ^ 16

/-- floor(pi/2 * 2^480). -/
def halfPiFix : Nat :=
  0x1921fb54442d18469898cc51701b839a252049c1114cf98e804177d4c76273644a29410f31c6809bbdf2a33679a748636605614dbe4be286e9fc26ada

/-- floor(ln 2 * 2^330). -/
def ln2Fix : Nat :=
  0x2c5c85fdf473de6af278ece600fcbdabd03cd0c99ca62d8b628345d6e2eabe8af9ee1d881b7aeb26156

/-- t - t*y/((i+1)(i+2)) + ..., the alternating series of sine and cosine with y the squared argument. -/
def trigSeries (y : Nat) : (fuel : Nat) → (i t : Nat) → Int
  | 0, _, _ => 0
  | fuel + 1, i, t =>
    (t : Int) - trigSeries y fuel (i + 2) (t * y / 2 ^ fixBits / ((i + 1) * (i + 2)))

/-- t + t*y/i + t*y*y/(i(i+1)) + ..., the exponential series. -/
def expSeries (y : Nat) : (fuel : Nat) → (i t : Nat) → Nat
  | 0, _, _ => 0
  | fuel + 1, i, t => t + expSeries y fuel (i + 1) (t * y / 2 ^ fixBits / i)

/-- sin of r/2^320, for 0 <= r/2^320 <= pi/2, scaled by 2^320. -/
def sinFix (r : Nat) : Int := trigSeries (r * r / 2 ^ fixBits) 45 1 r
/-- cos of r/2^320, for 0 <= r/2^320 <= pi/2, scaled by 2^320. -/
def cosFix (r : Nat) : Int := trigSeries (r * r / 2 ^ fixBits) 45 0 (2 ^ fixBits)
/-- 2^(f/2^320), for 0 <= f/2^320 < 1, scaled by 2^320. -/
def exp2Fix (f : Nat) : Nat := expSeries (f * ln2Fix / 2 ^ 330) 80 1 (2 ^ fixBits)

/-- v over `den` units of 2^-149, rounded with its sign. -/
def roundSigned (v : Int) (den : Nat) : Word := packSign (decide (v < 0)) (roundUnits v.natAbs den)

/-- The common rounding of the values v - fixError .. v + fixError, each over `den` units of 2^-149;
none if they round apart, or if 0 may be among them. -/
def roundBoth (v : Int) (den : Nat) : Option Word :=
  if v.natAbs ≤ fixError then none
  else
    let lo := roundSigned (v - fixError) den
    let hi := roundSigned (v + fixError) den
    if lo = hi then some lo else none

/-- A free value kept between the bounds lo and hi; lo where it is not between them. -/
def between (lo hi free : Word) : Word :=
  if orderKey lo ≤ orderKey free ∧ orderKey free ≤ orderKey hi then free else lo

/-- A free value between the roundings of v - fixError and v + fixError (log entry 6): what is left
of a value that `roundBoth` does not decide. -/
def undecided (v : Int) (den : Nat) (free : Word) : Word :=
  between (roundSigned (v - fixError) den) (roundSigned (v + fixError) den) free

/-- The sine of a nonzero finite a, scaled by 2^320. -/
def sinScaled (a : Word) : Int :=
  let x := unitsOf (magBits a) * 2 ^ 331
  let k := x / halfPiFix
  let r := x % halfPiFix / 2 ^ 160
  let v := if k % 2 = 0 then sinFix r else cosFix r
  if signBit a != decide (2 ≤ k % 4) then -v else v

/-- The sine of a nonzero finite a, rounded, where `roundBoth` decides it. -/
def sinRounded (a : Word) : Option Word := roundBoth (sinScaled a) (2 ^ 171)

/-- 2^n for an integer n, rounded. -/
def exp2Int (n : Int) : Nat :=
  if n ≥ 128 then infMag
  else if n < -150 then 0
  else if n ≥ -149 then roundUnits (2 ^ (n + 149).toNat) 1
  else roundUnits 1 2

/-- floor(a) of a finite a. -/
def exp2Whole (a : Word) : Int := exactUnits a / 2 ^ 149

/-- a - floor(a) of a finite a, in units of 2^-149. -/
def exp2Part (a : Word) : Nat := (exactUnits a % 2 ^ 149).toNat

/-- 2^(a - floor(a)) of a finite a, scaled by 2^320. -/
def exp2Scaled (a : Word) : Int := (exp2Fix (exp2Part a * 2 ^ 171) : Nat)

/-- The divisor that makes `exp2Scaled` 2^a in units of 2^-149, for floor(a) <= 171. -/
def exp2Den (a : Word) : Nat := 2 ^ (171 - exp2Whole a).toNat

/-- 2^a for a finite a, rounded, where `roundBoth` decides it. -/
def exp2Rounded (a : Word) : Option Word :=
  if exp2Part a = 0 then some (packSign false (exp2Int (exp2Whole a)))
  else if exp2Whole a ≥ 128 then some (packSign false infMag)
  else if exp2Whole a < -150 then some (packSign false 0)
  else roundBoth (exp2Scaled a) (exp2Den a)

/-- SIN32 (R9). A NaN gives the canonical NaN (R8). The real number 0 is one number, so both zeros give
RN(0) = +0.0 (log entry 7). An infinity is outside R9's domain: free (log entry 6). -/
def sin32 (lib : MathLib) (a : Word) : Word :=
  match lib with
  | .other => Config.sin32 a
  | .correctlyRounded =>
    if isNaN a then nan32
    else if isInf a then Config.sin32 a
    else if isZero a then zero32
    else (sinRounded a).getD (undecided (sinScaled a) (2 ^ 171) (Config.sin32 a))

/-- EXP2_32 (R9). A NaN gives the canonical NaN (R8); an infinity is outside R9's domain: free
(log entry 6). -/
def exp2 (lib : MathLib) (a : Word) : Word :=
  match lib with
  | .other => Config.exp2 a
  | .correctlyRounded =>
    if isNaN a then nan32
    else if isInf a then Config.exp2 a
    else (exp2Rounded a).getD (undecided (exp2Scaled a) (exp2Den a) (Config.exp2 a))

end Sys2Proof.Machine
end

