-- ==== Sys2Proof/Machine/Oscillator.lean ====
section
/-!
DEFINITION. The voice oscillator (42_oscillator.md): time base, frequency, polyBLEP, waveforms, gain,
panning, and the frame step of a voice and of an instance.
-/

namespace Sys2Proof.Machine

/-- SR32 (R200). -/
def sr32 (c : Config) : Word := i2f32 c.sampleRate

/-- dt32 (R200). -/
def dt32 (c : Config) : Word := div32 one32 (sr32 c)

/-- `frequency(note)` (R201): 440.0 * EXP2_32((note - 69.0) / 12.0). -/
def frequency (lib : MathLib) (note : Word) : Word :=
  mul32 0x43DC0000#32 (exp2 lib (div32 (sub32 note 0x428A0000#32) 0x41400000#32))

/-- `blep(t, d)` (R205). -/
def blep (coeff : BlepCoeff) (t d : Word) : Word :=
  if lt32 t d then
    let y := div32 t d
    match coeff with
    | .two => sub32 (sub32 (add32 y y) (mul32 y y)) one32
    | .one => sub32 (sub32 y (mul32 y y)) one32
  else if gt32 t (sub32 one32 d) then
    let y := div32 (sub32 t one32) d
    add32 (add32 (mul32 y y) (add32 y y)) one32
  else zero32

/-- Sine, with TWO_PI32 = 0x40C90FDB (R210). -/
def sineSample (lib : MathLib) (x : Word) : Word := sin32 lib (mul32 0x40C90FDB#32 x)

/-- Square with duty cycle pw (R211). -/
def squareSample (coeff : BlepCoeff) (pw t dtn : Word) : Word :=
  let naive := if lt32 t pw then one32 else 0xBF800000#32
  let u := frac32 (sub32 t pw)
  sub32 (add32 naive (blep coeff t dtn)) (blep coeff u dtn)

/-- Triangle (R212). -/
def triangleSample (t : Word) : Word :=
  if lt32 t 0x3F000000#32 then sub32 (mul32 0x40800000#32 t) one32
  else sub32 0x40400000#32 (mul32 0x40800000#32 t)

/-- Sawtooth (R213). -/
def sawtoothSample (coeff : BlepCoeff) (t dtn : Word) : Word :=
  sub32 (sub32 (mul32 0x40000000#32 t) one32) (blep coeff t dtn)

/-- One step of the noise generator, the xorshift32 of R214. -/
def noiseStep (r : Word) : Word :=
  let r1 := r ^^^ (r <<< 13)
  let r2 := r1 ^^^ (r1 >>> 17)
  r2 ^^^ (r2 <<< 5)

/-- The sample of a stepped noise state, read as signed (R214). -/
def noiseSample (r : Word) : Word := div32 (i2f32 r.toInt) (i2f32 2147483647)

/-- x of R203: cycles since phase 0. -/
def cyclesOf (lib : MathLib) (v : Voice) : Word := mul32 (frequency lib v.actualNote) v.phase

/-- dtn of R203: one sample period in cycles. -/
def dtnOf (c : Config) (v : Voice) : Word := div32 (frequency c.mathLib v.actualNote) (sr32 c)

/-- `sample(k, v)` (R215) with the noise state it leaves. -/
def sampleOf (c : Config) (p : Params) (v : Voice) : Word × Word :=
  match p.waveform with
  | .sine => (sineSample c.mathLib (cyclesOf c.mathLib v), v.noise)
  | .square =>
    (squareSample c.blepAfter p.pulseWidth (frac32 (cyclesOf c.mathLib v)) (dtnOf c v), v.noise)
  | .triangle => (triangleSample (frac32 (cyclesOf c.mathLib v)), v.noise)
  | .sawtooth => (sawtoothSample c.blepAfter (frac32 (cyclesOf c.mathLib v)) (dtnOf c v), v.noise)
  | .noise => (noiseSample (noiseStep v.noise), noiseStep v.noise)

/-- iL of R220: truncated, then clamped to 0 .. 254. -/
def panLeft (pan : Word) : Nat :=
  let i := f2iTrunc (mul32 (add32 pan one32) 0x42FE0000#32)
  if i < 0 then 0 else if 254 < i then 254 else i.toNat

/-- iR of R220. -/
def panRight (pan : Word) : Nat := 254 - panLeft pan

/-- PAN_TABLE[i] (R219). -/
def panGain (c : Config) (i : Nat) : Word := c.panTable.getD i zero32

/-- g of R221. -/
def voiceGain (volume : Word) (v : Voice) : Word :=
  let amp := mul32 v.velocity v.volume
  mul32 (mul32 amp amp) volume

/-- A sample pair added to a cell of the accumulator (R222, R243). -/
def addFrame (cell : Frame) (l r : Word) : Frame := ⟨add32 cell.left l, add32 cell.right r⟩

/-- A voice's sample s added with gain and pan (R222). -/
def accumulate (c : Config) (volume s : Word) (v : Voice) (cell : Frame) : Frame :=
  let y := mul32 s (voiceGain volume v)
  addFrame cell (mul32 y (panGain c (panLeft v.panning))) (mul32 y (panGain c (panRight v.panning)))

/-- `voice_frame(k, v, f)` (R230), on the voice and the cell ACC[f]. -/
def voiceFrame (c : Config) (p : Params) (volume : Word) (v : Voice) (cell : Frame) :
    Voice × Frame :=
  let v1 := tick p (dt32 c) v
  if v1.stage = .idle then (v1, cell)
  else
    let s := sampleOf c p v1
    ({ v1 with phase := add32 v1.phase (dt32 c), noise := s.2 }, accumulate c volume s.1 v1 cell)

/-- `osc_frame(k, f)` (R231): the voices in index order, on one cell. -/
def oscFrame (c : Config) (p : Params) (volume : Word) : List Voice → Frame → List Voice × Frame
  | [], cell => ([], cell)
  | v :: vs, cell =>
    let r := voiceFrame c p volume v cell
    let rest := oscFrame c p volume vs r.2
    (r.1 :: rest.1, rest.2)

/-- `process_block(k, n)` (R232): the frames in order, on the cells of ACC. -/
def oscBlock (c : Config) (p : Params) (volume : Word) :
    List Voice → List Frame → List Voice × List Frame
  | vs, [] => (vs, [])
  | vs, cell :: cells =>
    let r := oscFrame c p volume vs cell
    let rest := oscBlock c p volume r.1 cells
    (rest.1, r.2 :: rest.2)

end Sys2Proof.Machine
end

