-- ==== Sys2Proof/Machine/Block.lean ====
section
/-!
DEFINITION. The BLOCK step (43_mixer.md): drain, clear, sources, output, clock.
-/

namespace Sys2Proof.Machine

/-- One drained word executed (R98, R120, R121): a word that is no command raises BadCmd. -/
def execWord (w : CmdWord) (s : State) : Result :=
  match decodeWord w with
  | .ok i => exec i s
  | .error _ => .next (raise .badCmd s)

/-- The drain of R240: each word is taken from the head and executed before the next is taken. -/
def drain : List CmdWord → State → Result
  | [], s => .next s
  | w :: ws, s =>
    match execWord w (setFifo ws s) with
    | .next s1 => drain ws s1
    | .fault r => .fault r
    | .refused r => .refused r

/-- The cleared accumulator (R241). -/
def clearAcc (n : Nat) : List Frame := List.replicate n ⟨zero32, zero32⟩

/-- EXT_SAMPLE(j, f, n) (R243): the next frame of source j's stream, or a free draw (log entry 8). -/
def extSample (s : State) (j f n : Nat) : Frame :=
  ((s.extIn[j]?.getD [])[f]?).getD (Config.extSample s.extSerial j f n)

/-- `ext_block(j, n)` (R243) from frame f on. -/
def extBlock (s : State) (j n : Nat) : (f : Nat) → List Frame → List Frame
  | _, [] => []
  | f, cell :: cells =>
    addFrame cell (extSample s j f n).left (extSample s j f n).right :: extBlock s j n (f + 1) cells

/-- The state after source j has supplied n frames. -/
def dropExt (j n : Nat) (s : State) : State := { s with extIn := s.extIn.modify j (List.drop n) }

/-- One source asked for its block (R242): the state and the accumulator it leaves. -/
def renderSource (n : Nat) (r : State × List Frame) : Source → State × List Frame
  | .osc k =>
    match r.1.oscs[k]? with
    | none => r
    | some o =>
      let b := oscBlock r.1.cfg o.params r.1.globalVolume o.voices r.2
      (modifyOsc k (fun o => { o with voices := b.1 }) r.1, b.2)
  | .ext j => (dropExt j n r.1, extBlock r.1 j n 0 r.2)

/-- The sources in REGISTRY order (R242). -/
def renderSources (n : Nat) (s : State) : State × List Frame :=
  s.cfg.registry.foldl (renderSource n) (s, clearAcc n)

/-- The sample clock, the frame counter and the model's own BLOCK counter (R246, R247, log entry 8). -/
def advanceClock (n : Word) (s : State) : State :=
  { s with
    blockTime := add32 s.blockTime (div32 (i2f32 n.toNat) (sr32 s.cfg))
    frameCount := s.frameCount + n.zeroExtend 64
    extSerial := s.extSerial + 1 }

/-- A BLOCK after its drain (R241 to R247). -/
def renderBlock (n : Word) (s : State) : State :=
  let r := renderSources n.toNat s
  respond (.frames r.2) (advanceClock n r.1)

/-- BLOCK(n) (R248). -/
def blockStep (n : Word) (s : State) : Result :=
  match drain s.fifo s with
  | .next s1 => .next (renderBlock n s1)
  | .fault r => .fault r
  | .refused r => .refused r

end Sys2Proof.Machine
end

