-- ==== Sys2Proof/Machine/Ports.lean ====
section
/-!
DEFINITION. The port operations (44_host_interface.md) and RESET (R320).
-/

namespace Sys2Proof.Machine

/-- PUSH(w) (R271). -/
def pushStep (w : CmdWord) (s : State) : State :=
  if s.fifo.length < s.cfg.fifoDepth then pushTail w s else raise .cmdOvf s

/-- READ(a) (R272). -/
def readStep (a : Word) (s : State) : State := respond (.word (memRead s a)) s

/-- WRITE(a, d) (R273). -/
def writeStep (a d : Word) (s : State) : State := memWrite a d s

/-- RESET (R320): the block's own state; the configuration and the environment stay. -/
def resetStep (s : State) : State :=
  { State.resetWith s.cfg with
    pending := s.pending, obs := s.obs, extIn := s.extIn, extSerial := s.extSerial }

/-- The sink's request (R275, R276): refused with no sink (R250) or beyond MAX_BLOCK. -/
def sinkStep (n : Word) (s : State) : Result :=
  if s.cfg.sinkPresent = false then .refused .sinkAbsent
  else if s.cfg.maxBlock < n.toNat then .refused .blockTooLong
  else blockStep n s

/-- One port operation (R270). -/
def portStep (op : PortOp) (s : State) : Result :=
  match op with
  | .push w => .next (pushStep w s)
  | .read a => .next (readStep a s)
  | .write a d => .next (writeStep a d s)
  | .block n => sinkStep n s
  | .reset => .next (resetStep s)

/-- The next operation taken from the environment and done; with none to do the block waits
(R278, log entry 2). -/
def nextOperation (s : State) : Result :=
  match s.pending with
  | [] => .next s
  | op :: ops => portStep op { s with pending := ops }

/-- s with one command in the FIFO and a BLOCK of no frames as the next operation (log entry 4). -/
def placeCommand (w : CmdWord) (s : State) : State :=
  { s with fifo := [w], pending := .block 0#32 :: s.pending }

end Sys2Proof.Machine
end

