-- ==== Sys2Proof/Machine/Step.lean ====
section
/-!
DEFINITION. One step of the machine, and how a command is placed where the next step takes it.
-/

namespace Sys2Proof.Machine

/-- One atomic step (R80): the next port operation; none under an ill-formed configuration (R5). -/
def step (s : State) : Host.Outcome State Fault Refusal :=
  if configWellFormed s.cfg then nextOperation s else .refused .illFormedConfig

/-- s with the command of bits w (zero from nbits up) as the one the next step executes. -/
def State.withFetchWord (s : State) (nbits w : Nat) : State :=
  placeCommand (BitVec.ofNat 64 (w % 2 ^ nbits)) s

end Sys2Proof.Machine
end

