-- ==== Sys2Proof/Safety.lean ====
section
/-!
DEFINITION. The terms claims are stated in: the real value of a binary32 pattern and what it is to
round to it, the invariants of the state, and the other nesting of the rendering loops.
-/

namespace Sys2Proof

open Machine

/-- The value of a finite binary32 pattern (R7). -/
def val (a : Word) : ℚ := exactUnits a / 2 ^ 149

/-- w is the real x rounded to binary32, to nearest with ties to even (R8). From 2^128 - 2^103, the
middle between the largest finite value and 2^128, the result is the infinity of x's sign. -/
def RoundsTo (x : ℝ) (w : Word) : Prop :=
  if |x| < 2 ^ 128 - 2 ^ 103 then
    isFinite w = true ∧
      ∀ c, isFinite c = true → val c ≠ val w →
        |(val w : ℝ) - x| < |(val c : ℝ) - x| ∨
          (|(val w : ℝ) - x| = |(val c : ℝ) - x| ∧ w.toNat % 2 = 0)
  else w = packSign (decide (x < 0)) infMag

/-- A voice field read through the pool of instance k. -/
def voiceAt (s : State) (k j : Nat) : Option Voice := s.oscs[k]? >>= fun o => o.voices[j]?

/-- Every register holds a legal value (R31). -/
def RegistersLegal (s : State) : Prop :=
  (∀ o ∈ s.oscs, paramsLegal o.params = true) ∧ legalVolume s.globalVolume = true

/-- Each instance has its NVOICES(k) voices (R40). -/
def PoolsSized (s : State) : Prop :=
  s.oscs.map (fun o => o.voices.length) = s.cfg.instances.map InstConfig.nvoices

/-- The FIFO holds at most CMD_FIFO_DEPTH words (R50). -/
def FifoBounded (s : State) : Prop := s.fifo.length ≤ s.cfg.fifoDepth

/-- What holds of every voice of every pool. -/
def AllVoices (P : Voice → Prop) (s : State) : Prop := ∀ o ∈ s.oscs, ∀ v ∈ o.voices, P v

/-- An idle voice has volume +0.0 (R43). -/
def IdleSilent (v : Voice) : Prop := v.stage = .idle → v.volume = zero32

/-- The noise state is not 0 (R214). -/
def NoiseAlive (v : Voice) : Prop := v.noise ≠ 0#32

/-- The volume lies in [0, 1] (R169) and the stage time is a finite time, not negative. -/
def EnvelopeInRange (v : Voice) : Prop :=
  inRange32 zero32 one32 v.volume = true ∧ isFinite v.stageTime = true ∧
    ge32 v.stageTime zero32 = true

/-- The phase is a finite time, not negative (R203). -/
def PhaseInRange (v : Voice) : Prop := isFinite v.phase = true ∧ ge32 v.phase zero32 = true

/-- What a voice's frequency, gain and cycle position need to stay finite (R201, R203, R233): the note in
[-129, 384], the velocity in [0, 255/127], the phase in [0, 2^24]. The bounds on note and phase are
the model's own; the spec says "about [-128, 383]" of the note. -/
def SoundInRange (v : Voice) : Prop :=
  inRange32 0xC3010000#32 0x43C00000#32 v.actualNote = true ∧
    inRange32 zero32 0x40008102#32 v.velocity = true ∧ inRange32 zero32 0x4B800000#32 v.phase = true

/-- One voice through all frames, the inner loop of the voice-outer nesting (R232). -/
def voiceTrack (c : Config) (p : Params) (volume : Word) :
    Voice → List Frame → Voice × List Frame
  | v, [] => (v, [])
  | v, cell :: cells =>
    let r := voiceFrame c p volume v cell
    let rest := voiceTrack c p volume r.1 cells
    (rest.1, r.2 :: rest.2)

/-- The voice-outer nesting of the rendering loops (R232). -/
def voiceOuterBlock (c : Config) (p : Params) (volume : Word) :
    List Voice → List Frame → List Voice × List Frame
  | [], cells => ([], cells)
  | v :: vs, cells =>
    let r := voiceTrack c p volume v cells
    let rest := voiceOuterBlock c p volume vs r.2
    (r.1 :: rest.1, rest.2)

/-- The register address {INST, VSEL, REG} (R71, R105). -/
def regAddr (inst : Byte) (vsel : BitVec 16) (reg : Byte) : Word := inst ++ vsel ++ reg

end Sys2Proof
end

