-- ==== Sys2Proof/Certificates/Slice0/Obligations.lean ====
section
/-!
DEFINITION. The statements for the provers.
-/

open Sys2Proof Sys2Proof.Machine

/-! ### Encoding (30_encoding.md) -/

/-- R75, R90, R96, R105: the little-endian bytes of a command's word decode to that command, whatever
follows them. Every field has every value. -/
def Obligations.DecodeEncodeRoundTrip : Prop :=
  ∀ (i : Instr) (rest : List Byte), decode (bytesOfWord (encode i) ++ rest) = .ok (i, rest)

/-- R90, R96: a word that decodes is the encoding of what it decodes to, so no bit is dropped. -/
def Obligations.EncodeDecodeRoundTrip : Prop :=
  ∀ (w : CmdWord) (i : Instr), decodeWord w = .ok i → encode i = w

/-- R96: the four match and mask rows decide what a word is; a word that matches none is malformed. -/
def Obligations.DecodeFollowsMatchAndMask : Prop :=
  ∀ w : CmdWord,
    (decodeWord w = .ok .nop ↔ w = 0#64) ∧
    ((∃ k key vel, decodeWord w = .ok (.keyOn k key vel)) ↔
      w &&& 0xFFFFFFFF000000FF#64 = 0x0000000000000001#64) ∧
    ((∃ k key, decodeWord w = .ok (.keyOff k key)) ↔
      w &&& 0xFFFFFFFF00FF00FF#64 = 0x0000000000000002#64) ∧
    ((∃ k reg value, decodeWord w = .ok (.writeReg k reg value)) ↔
      w &&& 0x0000000000FF00FF#64 = 0x0000000000000003#64) ∧
    ((∃ e, decodeWord w = .error e) ↔
      w ≠ 0#64 ∧ w &&& 0xFFFFFFFF000000FF#64 ≠ 0x0000000000000001#64 ∧
      w &&& 0xFFFFFFFF00FF00FF#64 ≠ 0x0000000000000002#64 ∧
      w &&& 0x0000000000FF00FF#64 ≠ 0x0000000000000003#64)

/-- R107: the example words decode to the commands they are written for. -/
def Obligations.ExampleWordsDecode : Prop :=
  decodeWord 0x0000000000000000#64 = .ok .nop ∧
  decodeWord 0x00000000007F4501#64 = .ok (.keyOn 0#8 69#8 127#8) ∧
  decodeWord 0x00000000007F4001#64 = .ok (.keyOn 0#8 0x40#8 0x7F#8) ∧
  decodeWord 0x0000000000004502#64 = .ok (.keyOff 0#8 69#8) ∧
  decodeWord 0x3F00000000000403#64 = .ok (.writeReg 0#8 0x04#8 0x3F000000#32) ∧
  decodeWord 0x0000000300000603#64 = .ok (.writeReg 0#8 0x06#8 3#32) ∧
  decodeWord 0x3E800000FF000303#64 = .ok (.writeReg 0xFF#8 0x03#8 0x3E800000#32) ∧
  decodeWord 0x0000000900000803#64 = .ok (.writeReg 0#8 0x08#8 9#32)

/-! ### Commands (40_commands.md) -/

/-- R125: NOP has no effect. -/
def Obligations.NopHasNoEffect : Prop := ∀ s : State, exec .nop s = .next s

/-- R130 to R134, in closed form. Call the rank of an idle voice the number of idle voices below it.
KEY_ON with UNISON_COUNT = N puts position i on the idle voice of rank i, for every i < N for which
there is one, with R131's offsets, R132's velocity and R134's fields; it keeps the noise state; it
sets POOL_DROP exactly when N exceeds the number of idle voices; nothing else changes. The phase of
an infinite offset is the model's choice, a free value in [0, 1] (log entry 20). -/
def Obligations.KeyOnPlacesVoicesByRank : Prop :=
  ∀ (s : State) (inst key vel : Byte) (o : Osc),
    inst.toNat < s.cfg.nosc → s.oscs[inst.toNat]? = some o →
    let n := o.params.unisonCount.toNat
    let offset := fun (start span : Word) (i : Nat) =>
      if n = 1 then 0x00000000#32
      else add32 start (mul32 (i2f32 i) (div32 span (i2f32 ((n : Int) - 1))))
    ∃ (t : State) (o' : Osc), exec (.keyOn inst key vel) s = .next t ∧
      o'.params = o.params ∧ o'.voices.length = o.voices.length ∧
      (∀ (j : Nat) (v : Voice), o.voices[j]? = some v →
        let i := (o.voices.take j).countP fun u => decide (u.stage = .idle)
        o'.voices[j]? = some
          (if v.stage = .idle ∧ i < n then
            { stage := .delay, stageTime := 0x00000000#32, volume := 0x00000000#32, key := key
              actualNote := add32 (i2f32 key.toNat)
                (offset (neg32 (mul32 o.params.detuneDepth 0x3F000000#32)) o.params.detuneDepth i)
              velocity := div32 (div32 (i2f32 vel.toNat) 0x42FE0000#32) (sqrt32 (i2f32 n))
              panning := offset (neg32 o.params.stereoWidth)
                (mul32 0x40000000#32 o.params.stereoWidth) i
              phase :=
                let off :=
                  offset (neg32 (mul32 o.params.phaseSpread 0x3F000000#32)) o.params.phaseSpread i
                if isInf off then unitFree (Config.overflowPhase o.params.phaseSpread i n)
                else frac32 off
              noise := v.noise }
           else v)) ∧
      t = { s with
        oscs := s.oscs.set inst.toNat o'
        sticky := if n ≤ o.voices.countP (fun u => decide (u.stage = .idle)) then s.sticky
          else s.sticky ||| 0b10000#5 }

/-- R140: KEY_OFF puts every voice of the instance that holds the key, and is not idle unless
KEYOFF_RELEASES_IDLE, into RELEASE with stage time +0.0 and its volume kept; nothing else changes. -/
def Obligations.KeyOffReleasesMatchingVoices : Prop :=
  ∀ (s : State) (inst key : Byte) (o : Osc),
    inst.toNat < s.cfg.nosc → s.oscs[inst.toNat]? = some o →
    ∃ (t : State) (o' : Osc), exec (.keyOff inst key) s = .next t ∧
      o'.params = o.params ∧ o'.voices.length = o.voices.length ∧
      (∀ (j : Nat) (v : Voice), o.voices[j]? = some v →
        o'.voices[j]? = some
          (if v.key = key ∧ (v.stage ≠ .idle ∨ s.cfg.keyOffReleasesIdle = true) then
            { v with stage := .release, stageTime := 0x00000000#32 }
           else v)) ∧
      t = { s with oscs := s.oscs.set inst.toNat o' }

/-- R30, R100, R150, R152, R272: a legal WRITE_REG to register number 0x00 .. 0x0B of an instance
completes and sets that number's register of the table of R30; the register then reads as the value,
every other address reads as before, and the other instances and all voices are unchanged. -/
def Obligations.WriteRegThenReadGivesValue : Prop :=
  ∀ (s : State) (inst : Byte) (value : Word) (o : Osc),
    inst.toNat < s.cfg.nosc → s.cfg.nosc ≤ 255 → s.oscs[inst.toNat]? = some o →
    let sets := fun (reg : Byte) (r : ParamReg) (p : Params) => legalValue r value = true →
      ∃ t : State, exec (.writeReg inst reg value) s = .next t ∧
        t = { s with oscs := s.oscs.set inst.toNat { o with params := p } } ∧
        ∀ a : Word, memRead t a =
          if a.extractLsb' 24 8 = inst ∧ a.extractLsb' 0 8 = reg then value else memRead s a
    sets 0x00#8 .delay { o.params with delay := value } ∧
    sets 0x01#8 .attack { o.params with attack := value } ∧
    sets 0x02#8 .hold { o.params with hold := value } ∧
    sets 0x03#8 .decay { o.params with decay := value } ∧
    sets 0x04#8 .sustain { o.params with sustain := value } ∧
    sets 0x05#8 .release { o.params with release := value } ∧
    sets 0x06#8 .waveform { o.params with
      waveform := if value = 0#32 then .sine else if value = 1#32 then .square
        else if value = 2#32 then .triangle else if value = 3#32 then .sawtooth else .noise } ∧
    sets 0x07#8 .pulseWidth { o.params with pulseWidth := value } ∧
    sets 0x08#8 .unisonCount { o.params with unisonCount := value } ∧
    sets 0x09#8 .detuneDepth { o.params with detuneDepth := value } ∧
    sets 0x0A#8 .phaseSpread { o.params with phaseSpread := value } ∧
    sets 0x0B#8 .stereoWidth { o.params with stereoWidth := value }

/-- R100, R150: WRITE_REG to the global set writes GLOBAL_VOLUME if the value is legal, raises BadVal if
it is not, and raises BadReg for every other register number. -/
def Obligations.WriteRegGlobalVolume : Prop :=
  ∀ (s : State) (reg : Byte) (value : Word),
    exec (.writeReg 0xFF#8 reg value) s = .next
      (if reg = 0x03#8 then
        if legalVolume value = true then { s with globalVolume := value }
        else { s with sticky := s.sticky ||| 0b01000#5 }
       else { s with sticky := s.sticky ||| 0b00100#5 })

/-- R98, R100, R150: WRITE_REG to an instance raises BadReg for a number above 0x0B, and BadVal for a
value the register may not hold; it changes nothing else. -/
def Obligations.WriteRegRefusalsSetOneBit : Prop :=
  ∀ (s : State) (inst reg : Byte) (value : Word),
    inst.toNat < s.cfg.nosc → s.cfg.nosc ≤ 255 →
    (0x0C ≤ reg.toNat →
      exec (.writeReg inst reg value) s = .next { s with sticky := s.sticky ||| 0b00100#5 }) ∧
    (∀ r, paramReg? reg = some r → legalValue r value = false →
      exec (.writeReg inst reg value) s = .next { s with sticky := s.sticky ||| 0b01000#5 }) ∧
    (reg.toNat < 0x0C ↔ ∃ r, paramReg? reg = some r)

/-- R31, R151: what WRITE_REG accepts, said in real numbers. Negative zero is legal where zero is. -/
def Obligations.LegalValuesAreRealRanges : Prop :=
  ∀ x : Word,
    (∀ r, r = ParamReg.delay ∨ r = .attack ∨ r = .hold ∨ r = .decay ∨ r = .release →
      (legalValue r x = true ↔ isFinite x = true ∧ 0 ≤ val x)) ∧
    (∀ r, r = ParamReg.sustain ∨ r = .pulseWidth →
      (legalValue r x = true ↔ isFinite x = true ∧ 0 ≤ val x ∧ val x ≤ 1)) ∧
    (legalValue .waveform x = true ↔ x.toNat ≤ 4) ∧
    (legalValue .unisonCount x = true ↔ 1 ≤ x.toNat ∧ x.toNat ≤ 255) ∧
    (legalValue .detuneDepth x = true ↔ isFinite x = true ∧ -256 ≤ val x ∧ val x ≤ 256) ∧
    (legalValue .phaseSpread x = true ↔ isFinite x = true) ∧
    (legalValue .stereoWidth x = true ↔ isFinite x = true ∧ -1 ≤ val x ∧ val x ≤ 1) ∧
    (legalVolume x = true ↔ isFinite x = true ∧ 0 ≤ val x ∧ val x ≤ 65536)

/-- R97, R121: a drained word that is malformed, or whose instance is out of its row's range, sets
BAD_CMD and changes nothing else. -/
def Obligations.MalformedWordSetsOnlyBadCmd : Prop :=
  ∀ (s : State) (w : CmdWord),
    (∀ i, decodeWord w = .ok i → i.wellFormed s.cfg.nosc = false) →
    execWord w s = .next { s with sticky := s.sticky ||| 0b00010#5 }

/-- R98, R293: every drained word completes, and sets at most one STATUS bit. -/
def Obligations.OneWordSetsAtMostOneBit : Prop :=
  ∀ (s : State) (w : CmdWord), ∃ t, execWord w s = .next t ∧
    (t.sticky = s.sticky ∨ ∃ n : Nat, n < 5 ∧ t.sticky = s.sticky ||| (1#5 <<< n))

/-- R26, R150, R300: the frame of every command. Only the instance that INST names can change;
KEY_ON and KEY_OFF keep its registers; WRITE_REG keeps every voice; only WRITE_REG to G 0x03
changes GLOBAL_VOLUME; the clock, the FIFO and the environment do not change. -/
def Obligations.CommandFrame : Prop :=
  ∀ (i : Instr) (s t : State), exec i s = .next t →
    t = { s with sticky := t.sticky, globalVolume := t.globalVolume, oscs := t.oscs } ∧
    (∀ k key vel, i = .keyOn k key vel → t.globalVolume = s.globalVolume ∧
      (∀ j, j ≠ k.toNat → t.oscs[j]? = s.oscs[j]?) ∧
      t.oscs.map Osc.params = s.oscs.map Osc.params) ∧
    (∀ k key, i = .keyOff k key → t.globalVolume = s.globalVolume ∧
      (∀ j, j ≠ k.toNat → t.oscs[j]? = s.oscs[j]?) ∧
      t.oscs.map Osc.params = s.oscs.map Osc.params) ∧
    (∀ k reg value, i = .writeReg k reg value →
      (t.globalVolume ≠ s.globalVolume → k = 0xFF#8 ∧ reg = 0x03#8) ∧
      (∀ j, j ≠ k.toNat → t.oscs[j]? = s.oscs[j]?) ∧
      t.oscs.map Osc.voices = s.oscs.map Osc.voices)

/-- R161, R168, R140: only KEY_OFF enters RELEASE. A tick does not, and of the commands only a KEY_OFF
of the voice's own instance and key does. -/
def Obligations.OnlyKeyOffEntersRelease : Prop :=
  (∀ (p : Params) (dt : Word) (v : Voice),
    (tick p dt v).stage = .release → v.stage = .release) ∧
  (∀ (i : Instr) (s t : State) (k j : Nat) (v w : Voice), exec i s = .next t →
    voiceAt s k j = some v → voiceAt t k j = some w → v.stage ≠ .release → w.stage = .release →
    ∃ inst : Byte, inst.toNat = k ∧ i = .keyOff inst v.key)

/-- R42, R133, R162: with KEYOFF_RELEASES_IDLE false, a KEY_ON is the only way out of IDLE: a tick keeps an
idle voice idle, and no other command moves it. -/
def Obligations.OnlyKeyOnLeavesIdle : Prop :=
  (∀ (p : Params) (dt : Word) (v : Voice), v.stage = .idle → (tick p dt v).stage = .idle) ∧
  (∀ (i : Instr) (s t : State) (k j : Nat) (v w : Voice), exec i s = .next t →
    s.cfg.keyOffReleasesIdle = false →
    voiceAt s k j = some v → voiceAt t k j = some w → v.stage = .idle → w.stage ≠ .idle →
    ∃ inst key vel : Byte, inst.toNat = k ∧ i = .keyOn inst key vel)

/-! ### Ports (20_memory.md, 44_host_interface.md) -/

/-- R271: PUSH appends the word, undecoded, or on a full FIFO discards it and sets CMD_OVF. -/
def Obligations.PushAppendsOrOverflows : Prop :=
  ∀ (s : State) (w : CmdWord) (ops : List PortOp), configWellFormed s.cfg = true →
    step { s with pending := .push w :: ops } = .next
      (if s.fifo.length < s.cfg.fifoDepth then { s with fifo := s.fifo ++ [w], pending := ops }
       else { s with sticky := s.sticky ||| 0b00001#5, pending := ops })

/-- R81: between a PUSH and the next BLOCK every register but STATUS and FIFO_LEVEL reads as before. -/
def Obligations.PushedWordHasNoEffectYet : Prop :=
  ∀ (s t : State) (w : CmdWord) (ops : List PortOp) (a : Word),
    step { s with pending := .push w :: ops } = .next t →
    ¬ (a.extractLsb' 24 8 = 0xFF#8 ∧ (a.extractLsb' 0 8 = 0x00#8 ∨ a.extractLsb' 0 8 = 0x01#8)) →
    memRead t a = memRead s a

/-- R77, R272: READ returns the register and has no side effect. -/
def Obligations.ReadReturnsAndChangesNothing : Prop :=
  ∀ (s : State) (a : Word) (ops : List PortOp), configWellFormed s.cfg = true →
    step { s with pending := .read a :: ops } =
      .next { s with obs := s.obs ++ [.word (memRead s a)], pending := ops }

/-- R25, R27, R60: what the global registers read. STATUS has its sticky bits in 4:0, INERT in bit 5 exactly
when there is no sink, and 0 above. -/
def Obligations.GlobalRegistersRead : Prop :=
  ∀ (s : State) (vsel : BitVec 16), configWellFormed s.cfg = true →
    (memRead s (regAddr 0xFF#8 vsel 0x00#8)).extractLsb' 0 5 = s.sticky ∧
    ((memRead s (regAddr 0xFF#8 vsel 0x00#8)).getLsbD 5 = !s.cfg.sinkPresent) ∧
    (memRead s (regAddr 0xFF#8 vsel 0x00#8)).toNat < 2 ^ 6 ∧
    memRead s (regAddr 0xFF#8 vsel 0x01#8) = BitVec.ofNat 32 s.fifo.length ∧
    memRead s (regAddr 0xFF#8 vsel 0x02#8) = BitVec.ofNat 32 s.cfg.sampleRate ∧
    memRead s (regAddr 0xFF#8 vsel 0x03#8) = s.globalVolume ∧
    memRead s (regAddr 0xFF#8 vsel 0x04#8) = s.blockTime ∧
    (memRead s (regAddr 0xFF#8 vsel 0x06#8) ++ memRead s (regAddr 0xFF#8 vsel 0x05#8)) =
      s.frameCount ∧
    (memRead s (regAddr 0xFF#8 vsel 0x07#8)).toNat =
      s.cfg.nosc + 2 ^ 8 * s.cfg.next + 2 ^ 16 * s.cfg.fifoDepth ∧
    (memRead s (regAddr 0xFF#8 vsel 0x08#8)).toNat = s.cfg.maxBlock

/-- R27, R74, R273: a WRITE to the global STATUS clears the bits of 4:0 that d names and leaves every other
bit; a WRITE to any other address changes nothing. -/
def Obligations.WriteClearsNamedStatusBits : Prop :=
  ∀ (s : State) (a d : Word) (ops : List PortOp), configWellFormed s.cfg = true →
    ∃ t, step { s with pending := .write a d :: ops } = .next t ∧
      t = { s with sticky := t.sticky, pending := ops } ∧
      (a.extractLsb' 24 8 = 0xFF#8 → a.extractLsb' 0 8 = 0x00#8 →
        memRead t 0xFF000000#32 = memRead s 0xFF000000#32 &&& ~~~(d &&& 0x0000001F#32)) ∧
      (¬ (a.extractLsb' 24 8 = 0xFF#8 ∧ a.extractLsb' 0 8 = 0x00#8) → t.sticky = s.sticky)

/-- R72: VSEL does not matter below REG 0x80 nor in the global set. -/
def Obligations.VselIgnoredOutsideWindow : Prop :=
  ∀ (s : State) (inst reg : Byte) (v1 v2 : BitVec 16), inst = 0xFF#8 ∨ reg.toNat < 0x80 →
    memRead s (regAddr inst v1 reg) = memRead s (regAddr inst v2 reg)

/-- R73, R74, R41: an address that selects no register reads 0: an instance that is neither 0xFF nor
below NOSC, a reserved register number, a voice window past the pool. -/
def Obligations.UnmappedReadsGiveZero : Prop :=
  ∀ (s : State) (inst reg : Byte) (vsel : BitVec 16), PoolsSized s →
    (inst ≠ 0xFF#8 → s.cfg.nosc ≤ inst.toNat → memRead s (regAddr inst vsel reg) = 0#32) ∧
    (inst = 0xFF#8 → 0x09 ≤ reg.toNat → memRead s (regAddr inst vsel reg) = 0#32) ∧
    (inst ≠ 0xFF#8 → (0x0E ≤ reg.toNat ∧ reg.toNat < 0x80) ∨ 0x89 ≤ reg.toNat →
      memRead s (regAddr inst vsel reg) = 0#32) ∧
    (∀ c, inst ≠ 0xFF#8 → s.cfg.instances[inst.toNat]? = some c → c.nvoices ≤ vsel.toNat →
      0x80 ≤ reg.toNat → memRead s (regAddr inst vsel reg) = 0#32)

/-- R30, R32, R40, R41: the numbers 0x00 .. 0x0B of an instance return its registers, WAVEFORM as its
code; the voice window returns the fields of the voice that VSEL names, the stage as its code
IDLE=0 .. RELEASE=6; NVOICES and ACTIVE_COUNT read the pool's size and the number of its non-idle
voices. -/
def Obligations.VoiceWindowReadsFields : Prop :=
  ∀ (s : State) (inst : Byte) (vsel : BitVec 16) (o : Osc) (v : Voice),
    configWellFormed s.cfg = true → PoolsSized s → inst.toNat < s.cfg.nosc →
    s.oscs[inst.toNat]? = some o → o.voices[vsel.toNat]? = some v →
    memRead s (regAddr inst vsel 0x00#8) = o.params.delay ∧
    memRead s (regAddr inst vsel 0x01#8) = o.params.attack ∧
    memRead s (regAddr inst vsel 0x02#8) = o.params.hold ∧
    memRead s (regAddr inst vsel 0x03#8) = o.params.decay ∧
    memRead s (regAddr inst vsel 0x04#8) = o.params.sustain ∧
    memRead s (regAddr inst vsel 0x05#8) = o.params.release ∧
    memRead s (regAddr inst vsel 0x06#8) = (match o.params.waveform with
      | .sine => 0#32
      | .square => 1#32
      | .triangle => 2#32
      | .sawtooth => 3#32
      | .noise => 4#32) ∧
    memRead s (regAddr inst vsel 0x07#8) = o.params.pulseWidth ∧
    memRead s (regAddr inst vsel 0x08#8) = o.params.unisonCount ∧
    memRead s (regAddr inst vsel 0x09#8) = o.params.detuneDepth ∧
    memRead s (regAddr inst vsel 0x0A#8) = o.params.phaseSpread ∧
    memRead s (regAddr inst vsel 0x0B#8) = o.params.stereoWidth ∧
    memRead s (regAddr inst vsel 0x80#8) = (match v.stage with
      | .idle => 0#32
      | .delay => 1#32
      | .attack => 2#32
      | .hold => 3#32
      | .decay => 4#32
      | .sustain => 5#32
      | .release => 6#32) ∧
    memRead s (regAddr inst vsel 0x81#8) = v.stageTime ∧
    memRead s (regAddr inst vsel 0x82#8) = v.volume ∧
    (memRead s (regAddr inst vsel 0x83#8)).toNat = v.key.toNat ∧
    memRead s (regAddr inst vsel 0x84#8) = v.actualNote ∧
    memRead s (regAddr inst vsel 0x85#8) = v.velocity ∧
    memRead s (regAddr inst vsel 0x86#8) = v.panning ∧
    memRead s (regAddr inst vsel 0x87#8) = v.phase ∧
    memRead s (regAddr inst vsel 0x88#8) = v.noise ∧
    (memRead s (regAddr inst vsel 0x0C#8)).toNat = o.voices.length ∧
    (memRead s (regAddr inst vsel 0x0D#8)).toNat =
      o.voices.countP (fun u => decide (u.stage ≠ .idle))

/-! ### The BLOCK step (43_mixer.md) -/

/-- R97, R98, R120, R121, R240, R248: what a BLOCK does with the words of the FIFO, head first. With none
it renders. If the head decodes to a well-formed command, it runs exec of that command on the state
with that word gone from the FIFO, then drains the rest and renders. If the head is malformed or its
instance is out of its row's range, it sets BAD_CMD, then drains the rest and renders. The last
clause is the model's choice of how a command is placed (log entry 4): the step after withFetchWord
runs exec of what decodeTableWord reads, and then renders no frame. -/
def Obligations.StepRunsDecodedCommand : Prop :=
  (∀ (s : State) (n : Word) (ops : List PortOp), configWellFormed s.cfg = true →
    s.cfg.sinkPresent = true → n.toNat ≤ s.cfg.maxBlock →
    step { s with fifo := [], pending := .block n :: ops } =
      .next (renderBlock n { s with fifo := [], pending := ops })) ∧
  (∀ (s t : State) (w : CmdWord) (ws : List CmdWord) (n : Word) (ops : List PortOp) (i : Instr),
    configWellFormed s.cfg = true → s.cfg.sinkPresent = true → n.toNat ≤ s.cfg.maxBlock →
    decodeWord w = .ok i → i.wellFormed s.cfg.nosc = true →
    exec i { s with fifo := ws, pending := ops } = .next t →
    step { s with fifo := w :: ws, pending := .block n :: ops } =
      match drain ws t with
      | .next u => .next (renderBlock n u)
      | .fault r => .fault r
      | .refused r => .refused r) ∧
  (∀ (s : State) (w : CmdWord) (ws : List CmdWord) (n : Word) (ops : List PortOp),
    configWellFormed s.cfg = true → s.cfg.sinkPresent = true → n.toNat ≤ s.cfg.maxBlock →
    (∀ i, decodeWord w = .ok i → i.wellFormed s.cfg.nosc = false) →
    step { s with fifo := w :: ws, pending := .block n :: ops } =
      match drain ws { s with fifo := ws, pending := ops, sticky := s.sticky ||| 0b00010#5 } with
      | .next u => .next (renderBlock n u)
      | .fault r => .fault r
      | .refused r => .refused r) ∧
  (∀ (s t : State) (nbits w : Nat) (i : Instr), configWellFormed s.cfg = true →
    s.cfg.sinkPresent = true → decodeTableWord nbits w = some i →
    exec i { s with fifo := [] } = .next t →
    step (s.withFetchWord nbits w) = .next (renderBlock 0#32 t))

/-- R82, R240: commands take effect in FIFO order: draining a queue is draining its first part and then
the rest. -/
def Obligations.DrainRunsInFifoOrder : Prop :=
  ∀ (xs ys : List CmdWord) (s : State),
    drain (xs ++ ys) s =
      match drain xs s with
      | .next t => drain ys t
      | .fault r => .fault r
      | .refused r => .refused r

/-- R240 to R244, R246 to R248: a BLOCK the sink may ask for completes. With u what the drain leaves, it
delivers the accumulator that the sources of REGISTRY, in order, leave from n cleared cells, with
the voices and streams they leave: OSC k runs `process_block` on instance k's registers and voices
and GLOBAL_VOLUME and writes back its voices only; EXT j runs `ext_block` and uses up n frames of its
stream (log entry 8). An OSC k without an instance, in no reachable state, does nothing (log entry
15). The BLOCK empties the FIFO, advances the clock and the frame counter by n, and leaves the
configuration. With no external source registered and every voice idle after the drain, the n
frames are +0.0 on both channels. -/
def Obligations.BlockCompletes : Prop :=
  ∀ (s : State) (n : Word) (ops : List PortOp), configWellFormed s.cfg = true →
    s.cfg.sinkPresent = true → n.toNat ≤ s.cfg.maxBlock →
    ∃ (t u : State) (l : List Frame), drain s.fifo { s with pending := ops } = .next u ∧
      step { s with pending := .block n :: ops } = .next t ∧
      (let source := fun (r : State × List Frame) (src : Source) =>
        match src with
        | .osc k =>
          match r.1.oscs[k]? with
          | some o =>
            let b := oscBlock s.cfg o.params u.globalVolume o.voices r.2
            ({ r.1 with oscs := r.1.oscs.set k { o with voices := b.1 } }, b.2)
          | none => r
        | .ext j =>
          ({ r.1 with extIn := r.1.extIn.modify j (List.drop n.toNat) },
            extBlock r.1 j n.toNat 0 r.2)
       let r := s.cfg.registry.foldl source
        (u, List.replicate n.toNat ⟨0x00000000#32, 0x00000000#32⟩)
       l = r.2 ∧ t.oscs = r.1.oscs ∧ t.extIn = r.1.extIn) ∧
      ((∀ j, .ext j ∉ s.cfg.registry) → AllVoices (fun v => v.stage = .idle) u →
        l = List.replicate n.toNat ⟨0x00000000#32, 0x00000000#32⟩) ∧
      t.fifo = [] ∧ l.length = n.toNat ∧ t.obs = s.obs ++ [.frames l] ∧
      t.blockTime = add32 s.blockTime (div32 (i2f32 n.toNat) (i2f32 s.cfg.sampleRate)) ∧
      t.frameCount.toNat = (s.frameCount.toNat + n.toNat) % 2 ^ 64 ∧
      t.pending = ops ∧ t.cfg = s.cfg

/-- R249: a BLOCK of no frames drains the FIFO and does nothing else: no voice ticks, no frame is returned,
FRAME_COUNT stays and BLOCK_TIME gains +0.0. Of extSerial, the model's own counter (log entry 8),
nothing is said. -/
def Obligations.BlockZeroOnlyDrains : Prop :=
  ∀ (s : State) (ops : List PortOp), configWellFormed s.cfg = true → s.cfg.sinkPresent = true →
    ∃ t u, drain s.fifo { s with pending := ops } = .next t ∧
      step { s with pending := .block 0#32 :: ops } = .next u ∧ u.fifo = [] ∧
      u = { t with
        obs := t.obs ++ [.frames []]
        blockTime := add32 t.blockTime 0x00000000#32
        extSerial := u.extSerial }

/-- R276: a BLOCK beyond MAX_BLOCK has no step, and with SINK_PRESENT false no BLOCK has. -/
def Obligations.RefusedBlockRequests : Prop :=
  ∀ (s : State) (n : Word) (ops : List PortOp), configWellFormed s.cfg = true →
    (s.cfg.sinkPresent = true → s.cfg.maxBlock < n.toNat →
      step { s with pending := .block n :: ops } = .refused .blockTooLong) ∧
    (s.cfg.sinkPresent = false →
      step { s with pending := .block n :: ops } = .refused .sinkAbsent)

/-- R5: under an ill-formed configuration there is no step. A REGISTRY entry listed twice, or one that
names no source, is ill-formed. -/
def Obligations.IllFormedConfigHasNoStep : Prop :=
  (∀ s : State, configWellFormed s.cfg = false → step s = .refused .illFormedConfig) ∧
  (∀ c : Config, ¬ c.registry.Nodup → configWellFormed c = false) ∧
  (∀ (c : Config) (k : Nat), .osc k ∈ c.registry → c.nosc ≤ k → configWellFormed c = false) ∧
  (∀ (c : Config) (j : Nat), .ext j ∈ c.registry → c.next ≤ j → configWellFormed c = false)

/-- R80, R160, R230: rendering changes only the voices' envelope, phase and noise fields and what the
clock and the environment keep: STATUS, the FIFO, every register, and each voice's key, note,
velocity and pan stay. R5, R242: an instance that REGISTRY leaves out is never rendered: its voices
stay as they are. -/
def Obligations.RenderKeepsRegistersAndNotes : Prop :=
  ∀ (n : Word) (s : State),
    let t := renderBlock n s
    t.cfg = s.cfg ∧ t.sticky = s.sticky ∧ t.fifo = s.fifo ∧ t.globalVolume = s.globalVolume ∧
    t.pending = s.pending ∧ t.oscs.map Osc.params = s.oscs.map Osc.params ∧
    t.oscs.map (fun o => o.voices.map fun v => (v.key, v.actualNote, v.velocity, v.panning)) =
      s.oscs.map (fun o => o.voices.map fun v => (v.key, v.actualNote, v.velocity, v.panning)) ∧
    ∀ k : Nat, .osc k ∉ s.cfg.registry → t.oscs[k]? = s.oscs[k]?

/-- R201, R233, with the default library and voices in range (`SoundInRange`, the model's bounds): a
voice's frequency is finite and positive, its sample finite and within 3, its gain finite and at
most 4.04 * 65536, its contribution to either channel finite; and without an external source every
cell the sources leave is finite and below 2^47. It rests on the free value that a phase offset's
overflow leaves (log entry 20). -/
def Obligations.OscillatorSoundIsFinite : Prop :=
  (∀ (c : Config) (p : Params) (volume : Word) (v : Voice), configWellFormed c = true →
    c.mathLib = .correctlyRounded → paramsLegal p = true → legalVolume volume = true →
    EnvelopeInRange v → SoundInRange v →
    let f := frequency c.mathLib v.actualNote
    let s := (sampleOf c p v).1
    let g := voiceGain volume v
    (isFinite f = true ∧ 0 < val f) ∧ (isFinite s = true ∧ |val s| ≤ 3) ∧
    (isFinite g = true ∧ 0 ≤ val g ∧ val g ≤ 404 / 100 * 65536) ∧
    ∀ w ∈ c.panTable, isFinite (mul32 (mul32 s g) w) = true) ∧
  (∀ (s : State) (n : Nat), configWellFormed s.cfg = true → s.cfg.mathLib = .correctlyRounded →
    RegistersLegal s → PoolsSized s → AllVoices EnvelopeInRange s → AllVoices SoundInRange s →
    (∀ j, .ext j ∉ s.cfg.registry) →
    ∀ cell ∈ (renderSources n s).2,
      (isFinite cell.left = true ∧ |val cell.left| < 2 ^ 47) ∧
      (isFinite cell.right = true ∧ |val cell.right| < 2 ^ 47))

/-- R243: an external source adds its sample of frame f to cell f, for every frame in order; the sample is
the one supplied, where one is. -/
def Obligations.ExternalSamplesAreAdded : Prop :=
  ∀ (s : State) (j n f : Nat) (acc : List Frame) (cell : Frame), acc[f]? = some cell →
    (extBlock s j n 0 acc).length = acc.length ∧
    ∃ x : Frame, (extBlock s j n 0 acc)[f]? =
        some ⟨add32 cell.left x.left, add32 cell.right x.right⟩ ∧
      ∀ (stream : List Frame) (y : Frame), s.extIn[j]? = some stream → stream[f]? = some y → x = y

/-- R232: rendering voice by voice through all frames gives the same voices and the same bits as
rendering frame by frame through all voices. -/
def Obligations.LoopNestingGivesSameBits : Prop :=
  ∀ (c : Config) (p : Params) (volume : Word) (vs : List Voice) (cells : List Frame),
    oscBlock c p volume vs cells = voiceOuterBlock c p volume vs cells

/-- R162, R202, R203, R210 to R215, R220 to R222, R230: the frame step of a voice. It ticks. A voice idle
after its tick adds nothing and keeps its phase and noise; one idle before it keeps all but volume
+0.0. Any other adds y times the two pan gains to its cell, with the sample s taken at the phase
before the advance; then the phase advances by dt32, and the noise state has stepped exactly when
WAVEFORM is noise. -/
def Obligations.VoiceFrameStep : Prop :=
  ∀ (c : Config) (p : Params) (volume : Word) (v : Voice) (cell : Frame),
    let dt := div32 0x3F800000#32 (i2f32 c.sampleRate)
    let v1 := tick p dt v
    (v.stage = .idle →
      voiceFrame c p volume v cell = ({ v with volume := 0x00000000#32 }, cell)) ∧
    (v1.stage = .idle → voiceFrame c p volume v cell =
      ({ v with stage := .idle, stageTime := v1.stageTime, volume := v1.volume }, cell)) ∧
    (v1.stage ≠ .idle →
      let f := mul32 0x43DC0000#32
        (exp2 c.mathLib (div32 (sub32 v.actualNote 0x428A0000#32) 0x41400000#32))
      let x := mul32 f v.phase
      let t := frac32 x
      let dtn := div32 f (i2f32 c.sampleRate)
      let r1 := v.noise ^^^ (v.noise <<< 13)
      let r2 := r1 ^^^ (r1 >>> 17)
      let r3 := r2 ^^^ (r2 <<< 5)
      let s := match p.waveform with
        | .sine => sin32 c.mathLib (mul32 0x40C90FDB#32 x)
        | .square =>
          sub32 (add32 (if lt32 t p.pulseWidth then 0x3F800000#32 else 0xBF800000#32)
            (blep c.blepAfter t dtn)) (blep c.blepAfter (frac32 (sub32 t p.pulseWidth)) dtn)
        | .triangle =>
          if lt32 t 0x3F000000#32 then sub32 (mul32 0x40800000#32 t) 0x3F800000#32
          else sub32 0x40400000#32 (mul32 0x40800000#32 t)
        | .sawtooth =>
          sub32 (sub32 (mul32 0x40000000#32 t) 0x3F800000#32) (blep c.blepAfter t dtn)
        | .noise => div32 (i2f32 r3.toInt) 0x4F000000#32
      let amp := mul32 v.velocity v1.volume
      let y := mul32 s (mul32 (mul32 amp amp) volume)
      let iL := (max 0 (min 254
        (f2iTrunc (mul32 (add32 v.panning 0x3F800000#32) 0x42FE0000#32)))).toNat
      voiceFrame c p volume v cell =
        ({ v with
            stage := v1.stage, stageTime := v1.stageTime, volume := v1.volume
            phase := add32 v.phase dt
            noise := if p.waveform = .noise then r3 else v.noise },
         ⟨add32 cell.left (mul32 y (c.panTable.getD iL 0x00000000#32)),
          add32 cell.right (mul32 y (c.panTable.getD (254 - iL) 0x00000000#32))⟩))

/-! ### Reset and invariants (10_state.md, 70_reset_and_hazards.md) -/

/-- R320: RESET completes in one step; it empties the FIFO, clears STATUS but for INERT, sets the registers
to RESET_PARAM, the clock to zero and every voice to idle, zeros and its seed, and leaves the
configuration. -/
def Obligations.ResetSetsEveryPiece : Prop :=
  ∀ (s : State) (ops : List PortOp), configWellFormed s.cfg = true →
    ∃ t, step { s with pending := .reset :: ops } = .next t ∧
      t.cfg = s.cfg ∧ t.pending = ops ∧ t.fifo = [] ∧
      memRead t 0xFF000000#32 = (if s.cfg.sinkPresent then 0x00000000#32 else 0x00000020#32) ∧
      t.globalVolume = s.cfg.resetVolume ∧ t.blockTime = 0x00000000#32 ∧ t.frameCount = 0#64 ∧
      t.oscs.length = s.cfg.nosc ∧
      ∀ (k : Nat) (c : InstConfig) (o : Osc), s.cfg.instances[k]? = some c →
        t.oscs[k]? = some o →
        o.params = c.resetParams ∧ o.voices.length = c.nvoices ∧
        ∀ (j : Nat) (v : Voice), o.voices[j]? = some v →
          v.stage = .idle ∧ v.key = 0#8 ∧ c.seeds[j]? = some v.noise ∧
          v.stageTime = 0x00000000#32 ∧ v.volume = 0x00000000#32 ∧
          v.actualNote = 0x00000000#32 ∧ v.velocity = 0x00000000#32 ∧
          v.panning = 0x00000000#32 ∧ v.phase = 0x00000000#32

/-- R60: the reset values of the default configuration, read at the host port. -/
def Obligations.DefaultResetReads : Prop :=
  memRead State.reset 0xFF000000#32 = 0#32 ∧ memRead State.reset 0xFF000001#32 = 0#32 ∧
  memRead State.reset 0xFF000002#32 = 44100#32 ∧ memRead State.reset 0xFF000003#32 = 0x3F800000#32 ∧
  memRead State.reset 0xFF000004#32 = 0#32 ∧ memRead State.reset 0xFF000005#32 = 0#32 ∧
  memRead State.reset 0xFF000006#32 = 0#32 ∧ memRead State.reset 0xFF000007#32 = 0x01000001#32 ∧
  memRead State.reset 0xFF000008#32 = 4096#32 ∧
  (∀ reg : Byte, reg.toNat ≤ 0x0D → memRead State.reset (regAddr 0#8 0#16 reg) =
    match reg.toNat with
    | 0x04 => 0x3F800000#32
    | 0x07 => 0x3F000000#32
    | 0x08 => 1#32
    | 0x0C => 64#32
    | _ => 0#32) ∧
  (∀ v, v < 64 → memRead State.reset (regAddr 0#8 (BitVec.ofNat 16 v) 0x88#8) =
    BitVec.ofNat 32 (2463534242 + v))

/-- R4: no step changes the configuration. -/
def Obligations.ConfigurationNeverChanges : Prop :=
  ∀ s t : State, step s = .next t → t.cfg = s.cfg

/-- R31, R151: "A register therefore always holds a legal value": every step keeps all registers
legal. -/
def Obligations.RegistersStayLegal : Prop :=
  ∀ s t : State, RegistersLegal s → step s = .next t → RegistersLegal t

/-- R40: the pools never change size. -/
def Obligations.PoolsKeepTheirSize : Prop :=
  ∀ s t : State, PoolsSized s → step s = .next t → PoolsSized t

/-- R50: the FIFO never holds more than CMD_FIFO_DEPTH words. -/
def Obligations.FifoNeverOverfills : Prop :=
  ∀ s t : State, FifoBounded s → step s = .next t → FifoBounded t

/-- R43: every step keeps idle voices at volume +0.0. -/
def Obligations.IdleVoicesStaySilent : Prop :=
  ∀ s t : State, AllVoices IdleSilent s → step s = .next t → AllVoices IdleSilent t

/-- R214: with nonzero seeds the noise states never become 0. -/
def Obligations.NoiseStatesNeverDie : Prop :=
  ∀ s t : State, AllVoices NoiseAlive s → step s = .next t → AllVoices NoiseAlive t

/-- R169: with legal registers every step keeps every volume in [0, 1]; stage times stay finite and not
negative, which the argument needs. -/
def Obligations.VolumesStayInUnitRange : Prop :=
  ∀ s t : State, RegistersLegal s → AllVoices EnvelopeInRange s → step s = .next t →
    AllVoices EnvelopeInRange t

/-- R4, R60, R320: the state after reset of any well-formed configuration meets every invariant above. -/
def Obligations.ResetMeetsInvariants : Prop :=
  ∀ c : Config, configWellFormed c = true →
    RegistersLegal (State.resetWith c) ∧ PoolsSized (State.resetWith c) ∧
    FifoBounded (State.resetWith c) ∧ AllVoices IdleSilent (State.resetWith c) ∧
    AllVoices NoiseAlive (State.resetWith c) ∧ AllVoices EnvelopeInRange (State.resetWith c) ∧
    AllVoices PhaseInRange (State.resetWith c) ∧ AllVoices SoundInRange (State.resetWith c)

/-! ### Envelope (41_envelope.md) and hazards (70_reset_and_hazards.md) -/

/-- R161 to R168: what one tick does from each stage, by the branch it takes. An idle voice only gets
volume +0.0. In any other stage dt is first added to the stage time, T. A stage entered at T ends
with its volume formula if T is below its length, and else goes to the next stage with its length
subtracted from T; ATTACK and DECAY of length zero are skipped. SUSTAIN at level zero, RELEASE at
rate zero, and a RELEASE that reaches zero or below end the note. Beside it, R163 to R167 in real
terms: with DELAY, ATTACK, HOLD and DECAY of length zero (of either sign) and SUSTAIN above zero, one
tick takes a fresh voice from DELAY to SUSTAIN with the whole dt left. -/
def Obligations.TickFollowsStages : Prop :=
  (∀ (p : Params) (dt : Word) (v : Voice),
    let ends := fun u : Voice =>
      { u with stage := .idle, stageTime := 0x00000000#32, volume := 0x00000000#32 }
    let sustain := fun u : Voice =>
      if eq32 p.sustain 0x00000000#32 = true then ends u
      else { u with stage := .sustain, volume := p.sustain }
    let decay := fun u : Voice =>
      if eq32 p.decay 0x00000000#32 = true then sustain u
      else if ge32 u.stageTime p.decay = true then
        sustain { u with stageTime := sub32 u.stageTime p.decay }
      else { u with
        stage := .decay
        volume := add32 0x3F800000#32
          (mul32 (sub32 p.sustain 0x3F800000#32) (div32 u.stageTime p.decay)) }
    let hold := fun u : Voice =>
      if ge32 u.stageTime p.hold = true then decay { u with stageTime := sub32 u.stageTime p.hold }
      else { u with stage := .hold, volume := 0x3F800000#32 }
    let attack := fun u : Voice =>
      if eq32 p.attack 0x00000000#32 = true then hold u
      else if ge32 u.stageTime p.attack = true then
        hold { u with stageTime := sub32 u.stageTime p.attack }
      else { u with
        stage := .attack, volume := min32 (div32 u.stageTime p.attack) 0x3F800000#32 }
    let delay := fun u : Voice =>
      if ge32 u.stageTime p.delay = true then
        attack { u with stageTime := sub32 u.stageTime p.delay }
      else { u with stage := .delay, volume := 0x00000000#32 }
    let u := { v with stageTime := add32 v.stageTime dt }
    let left := sub32 v.volume (mul32 p.release dt)
    tick p dt v = match v.stage with
      | .idle => { v with volume := 0x00000000#32 }
      | .delay => delay u
      | .attack => attack u
      | .hold => hold u
      | .decay => decay u
      | .sustain => sustain u
      | .release =>
        if eq32 p.release 0x00000000#32 = true ∨ le32 left 0x00000000#32 = true then ends u
        else { u with volume := left }) ∧
  (∀ (p : Params) (dt : Word) (v : Voice),
    isZero p.delay = true → isZero p.attack = true → isZero p.hold = true →
    isZero p.decay = true → gt32 p.sustain 0x00000000#32 = true →
    v.stage = .delay → v.stageTime = 0x00000000#32 →
    isFinite dt = true → gt32 dt 0x00000000#32 = true →
    tick p dt v = { v with stage := .sustain, stageTime := dt, volume := p.sustain })

/-- R141, R330: a voice released at volume +0.0 (one released in DELAY) is idle after its next tick,
whatever the legal release rate. -/
def Obligations.SilentReleaseEndsAtOnce : Prop :=
  ∀ (p : Params) (dt : Word) (v : Voice), paramsLegal p = true → v.stage = .release →
    v.volume = 0x00000000#32 → isFinite dt = true → gt32 dt 0x00000000#32 = true →
    (tick p dt v).stage = .idle ∧ (tick p dt v).volume = 0x00000000#32

/-- R332: at 44100 Hz a DELAY longer than 512 s never ends: stage_time stays at or below 512.0, so the voice
stays in DELAY. -/
def Obligations.DelayBeyond512NeverEnds : Prop :=
  ∀ (p : Params) (v : Voice), gt32 p.delay 0x44000000#32 = true → v.stage = .delay →
    ge32 v.stageTime 0x00000000#32 = true → le32 v.stageTime 0x44000000#32 = true →
    let v' := tick p 0x37BE37C6#32 v
    v'.stage = .delay ∧ ge32 v'.stageTime 0x00000000#32 = true ∧
      le32 v'.stageTime 0x44000000#32 = true

/-- R331: at 44100 Hz the phase stops: adding dt32 to any finite value from 512.0 up gives it back. -/
def Obligations.PhaseStopsAt512 : Prop :=
  ∀ a : Word, isFinite a = true → ge32 a 0x44000000#32 = true → add32 a 0x37BE37C6#32 = a

/-- R333: at 44100 Hz a release at volume 1.0 with a rate up to 0x3AAC4400 never moves. -/
def Obligations.SlowReleaseStalls : Prop :=
  ∀ (p : Params) (v : Voice), gt32 p.release 0x00000000#32 = true →
    le32 p.release 0x3AAC4400#32 = true → v.stage = .release → v.volume = 0x3F800000#32 →
    (tick p 0x37BE37C6#32 v).stage = .release ∧ (tick p 0x37BE37C6#32 v).volume = 0x3F800000#32

/-! ### Oscillator (42_oscillator.md) -/

/-- R220: the two pan indices mirror each other in 0 .. 254, for every pan; -1, 0 and 1 are full left,
centre and full right. -/
def Obligations.PanIndicesMirror : Prop :=
  (∀ pan : Word, panLeft pan ≤ 254 ∧ panLeft pan + panRight pan = 254) ∧
  panLeft 0xBF800000#32 = 0 ∧ panLeft 0x00000000#32 = 127 ∧ panLeft 0x3F800000#32 = 254

/-- R205: the two segments of `blep`, for both values of POLYBLEP_AFTER_COEFF, the after-edge test first.
With the default coefficient the after-edge segment lies in [-1, 0] and the before-edge segment in
[0, 1], for a cycle position in [0, 1) and a finite period above 0; either coefficient gives -1.0 on
the edge, and the three examples of R205 hold. -/
def Obligations.PolyBlepSegments : Prop :=
  (∀ t d : Word,
    (lt32 t d = true →
      let y := div32 t d
      blep .two t d = sub32 (sub32 (add32 y y) (mul32 y y)) 0x3F800000#32 ∧
      blep .one t d = sub32 (sub32 y (mul32 y y)) 0x3F800000#32) ∧
    (lt32 t d = false → ∀ c : BlepCoeff,
      let y := div32 (sub32 t 0x3F800000#32) d
      blep c t d = if gt32 t (sub32 0x3F800000#32 d) = true then
          add32 (add32 (mul32 y y) (add32 y y)) 0x3F800000#32
        else 0x00000000#32)) ∧
  (∀ t d : Word, ge32 t 0x00000000#32 = true → lt32 t 0x3F800000#32 = true →
    isFinite d = true → gt32 d 0x00000000#32 = true →
    (lt32 t d = true → inRange32 0xBF800000#32 0x00000000#32 (blep .two t d) = true) ∧
    (lt32 t d = false → inRange32 0x00000000#32 0x3F800000#32 (blep .two t d) = true)) ∧
  (∀ (c : BlepCoeff) (d : Word), isFinite d = true → gt32 d 0x00000000#32 = true →
    blep c 0x00000000#32 d = 0xBF800000#32) ∧
  blep .two 0x00000000#32 0x3E800000#32 = 0xBF800000#32 ∧
  blep .two 0x3E000000#32 0x3E800000#32 = 0xBE800000#32 ∧
  blep .two 0x3F000000#32 0x3E800000#32 = 0x00000000#32

/-- R214: the noise samples lie in [-1.0, 1.0], and the generator never joins two states: with a nonzero
seed it never becomes 0. -/
def Obligations.NoiseStepIsInjective : Prop :=
  (∀ a b : Word, noiseStep a = noiseStep b → a = b) ∧ noiseStep 0#32 = 0#32 ∧
  (∀ r : Word, inRange32 0xBF800000#32 0x3F800000#32 (noiseSample r) = true)

/-- R211's corner case "pw = 0 gives naive -1 for every t, and the two corrections cancel exactly". Expected
to fail: the additions round (log entry 19). -/
def Obligations.ZeroPulseWidthIsConstant : Prop :=
  ∀ t dtn : Word, ge32 t 0x00000000#32 = true → lt32 t 0x3F800000#32 = true →
    isFinite dtn = true → gt32 dtn 0x00000000#32 = true →
    squareSample .two 0x00000000#32 t dtn = 0xBF800000#32

/-- R203's "V.phase >= 0", and what R201 and R233 rest on: with legal registers KEY_ON gives every voice a
finite phase, not negative, and every step keeps every voice's note, velocity and phase in range
(`SoundInRange`, the model's bounds). It rests on the model's choice for a phase offset that
overflows, a free value in [0, 1] (log entry 20). -/
def Obligations.LegalSoundStaysInRange : Prop :=
  (∀ (s t : State) (inst key vel : Byte), RegistersLegal s → AllVoices PhaseInRange s →
    exec (.keyOn inst key vel) s = .next t → AllVoices PhaseInRange t) ∧
  (∀ s t : State, RegistersLegal s → AllVoices SoundInRange s → step s = .next t →
    AllVoices SoundInRange t)

/-! ### Arithmetic (00_scope.md R8, R9) -/

/-- R8: each arithmetic primitive on finite operands is the exact real result rounded once, to nearest,
ties to even, with overflow to the signed infinity; a NaN operand gives the canonical NaN. -/
def Obligations.ArithmeticRoundsOnce : Prop :=
  (∀ a b : Word, isFinite a = true → isFinite b = true →
    RoundsTo ((val a : ℝ) + val b) (add32 a b) ∧ RoundsTo ((val a : ℝ) - val b) (sub32 a b) ∧
    RoundsTo ((val a : ℝ) * val b) (mul32 a b) ∧
    (val b ≠ 0 → RoundsTo ((val a : ℝ) / val b) (div32 a b))) ∧
  (∀ a : Word, isFinite a = true → 0 ≤ val a → RoundsTo (Real.sqrt (val a)) (sqrt32 a)) ∧
  (∀ n : Int, RoundsTo (n : ℝ) (i2f32 n)) ∧
  (∀ a b : Word, isNaN a = true ∨ isNaN b = true →
    add32 a b = 0x7FC00000#32 ∧ sub32 a b = 0x7FC00000#32 ∧ mul32 a b = 0x7FC00000#32 ∧
    div32 a b = 0x7FC00000#32) ∧
  (∀ a : Word, isNaN a = true → sqrt32 a = 0x7FC00000#32 ∧ frac32 a = 0x7FC00000#32)

/-- R8: the comparisons are those of the values; both zeros are equal, and a NaN compares false. -/
def Obligations.ComparisonsAreOfValues : Prop :=
  (∀ a b : Word, isFinite a = true → isFinite b = true →
    (lt32 a b = true ↔ val a < val b) ∧ (le32 a b = true ↔ val a ≤ val b) ∧
    (gt32 a b = true ↔ val a > val b) ∧ (ge32 a b = true ↔ val a ≥ val b) ∧
    (eq32 a b = true ↔ val a = val b)) ∧
  (∀ a b : Word, isNaN a = true ∨ isNaN b = true →
    lt32 a b = false ∧ le32 a b = false ∧ gt32 a b = false ∧ ge32 a b = false ∧ eq32 a b = false)

/-- R8: floor32 is the greatest integral value not above its operand, exactly; frac32 of a value from 0 up
is exact and lies in [0, 1). -/
def Obligations.FloorAndFracAreExact : Prop :=
  ∀ a : Word, isFinite a = true →
    (isFinite (floor32 a) = true ∧ val (floor32 a) = (⌊val a⌋ : ℚ)) ∧
    (0 ≤ val a → isFinite (frac32 a) = true ∧ val (frac32 a) = Int.fract (val a)) ∧
    (val a < 0 → isFinite (frac32 a) = true ∧ 0 ≤ val (frac32 a) ∧ val (frac32 a) ≤ 1)

/-- R9: where the default library decides its value (log entry 6), EXP2_32 is that value, and it is 2^a
rounded correctly. -/
def Obligations.DefaultExp2RoundsCorrectly : Prop :=
  ∀ a w : Word, isFinite a = true → exp2Rounded a = some w →
    exp2 .correctlyRounded a = w ∧ RoundsTo ((2 : ℝ) ^ (val a : ℝ)) w

/-- R9: where the default library decides its value (log entry 6), SIN32 is that value, and it is sin(a)
rounded correctly. -/
def Obligations.DefaultSineRoundsCorrectly : Prop :=
  ∀ a w : Word, isFinite a = true → isZero a = false → sinRounded a = some w →
    sin32 .correctlyRounded a = w ∧ RoundsTo (Real.sin (val a)) w
end

