-- ==== Sys2Proof/Laws/Binary32.lean ====
section
/-!
SUPPORT. Facts about rounding and about exact values that claims on the arithmetic rest on.
-/

namespace Sys2Proof.Machine

/-- num/d rounded to a whole number, to nearest, ties to even: the heart of `roundUnits`. -/
def roundQuot (num d : Nat) : Nat :=
  if 2 * (num % d) > d ∨ (2 * (num % d) = d ∧ num / d % 2 = 1) then num / d + 1 else num / d

/-- The exponent that `roundUnits` chooses. -/
def shiftOf (num den : Nat) : Nat := Nat.log2 (num / den) - 23

theorem roundUnits_eq (num den : Nat) : roundUnits num den =
    min (shiftOf num den * 2 ^ 23 + roundQuot num (den * 2 ^ shiftOf num den)) infMag := rfl

theorem roundQuot_le (num d : Nat) : roundQuot num d ≤ num / d + 1 := by
  unfold roundQuot; split <;> omega

theorem le_roundQuot (num d : Nat) : num / d ≤ roundQuot num d := by
  unfold roundQuot; split <;> omega

theorem roundQuot_of_mod_eq_zero {num d : Nat} (hd : 0 < d) (h : num % d = 0) :
    roundQuot num d = num / d := by
  unfold roundQuot; rw [h]; split <;> omega

/-- A smaller fraction rounds to no larger number. -/
theorem roundQuot_mono {n1 d1 n2 d2 : Nat} (h1 : 0 < d1) (h2 : 0 < d2) (h : n1 * d2 ≤ n2 * d1) :
    roundQuot n1 d1 ≤ roundQuot n2 d2 := by
  have hk : n1 / d1 ≤ n2 / d2 := by
    rw [Nat.le_div_iff_mul_le h2]
    have := Nat.div_mul_le_self n1 d1
    nlinarith
  rcases Nat.lt_or_eq_of_le hk with hlt | heq
  · exact (roundQuot_le n1 d1).trans ((Nat.succ_le_of_lt hlt).trans (le_roundQuot n2 d2))
  · have e1 := Nat.div_add_mod n1 d1
    have e2 := Nat.div_add_mod n2 d2
    have hr : n1 % d1 * d2 ≤ n2 % d2 * d1 := by
      rw [← e1, ← e2, heq] at h
      have l : (d1 * (n2 / d2) + n1 % d1) * d2 = n2 / d2 * (d1 * d2) + n1 % d1 * d2 := by ring
      have r : (d2 * (n2 / d2) + n2 % d2) * d1 = n2 / d2 * (d1 * d2) + n2 % d2 * d1 := by ring
      omega
    unfold roundQuot
    rw [heq]
    generalize n1 % d1 = r1 at hr
    generalize n2 % d2 = r2 at hr
    split
    · rename_i hup
      rw [if_pos]
      rcases hup with hup | ⟨hup, hodd⟩
      · left
        by_contra hc
        have a1 : d1 * d2 < 2 * (r1 * d2) := by nlinarith
        have a2 : 2 * (r2 * d1) ≤ d1 * d2 := by nlinarith
        omega
      · rcases Nat.lt_trichotomy d2 (2 * r2) with hlt | heq2 | hgt
        · exact .inl hlt
        · exact .inr ⟨heq2.symm, hodd⟩
        · exfalso
          have a1 : 2 * (r2 * d1) < d1 * d2 := by nlinarith
          have a2 : 2 * (r1 * d2) = d1 * d2 := by rw [← hup]; ring
          omega
    · split <;> omega

theorem shiftOf_mono {n1 d1 n2 d2 : Nat} (h1 : 0 < d1) (h2 : 0 < d2) (h : n1 * d2 ≤ n2 * d1) :
    shiftOf n1 d1 ≤ shiftOf n2 d2 := by
  have hk : n1 / d1 ≤ n2 / d2 := by
    rw [Nat.le_div_iff_mul_le h2]
    have := Nat.div_mul_le_self n1 d1
    nlinarith
  unfold shiftOf
  have : Nat.log2 (n1 / d1) ≤ Nat.log2 (n2 / d2) := by
    rw [Nat.log2_eq_log_two, Nat.log2_eq_log_two]
    exact Nat.log_mono_right hk
  omega

/-- The significand before rounding has at most 24 bits. -/
theorem quot_lt {num den : Nat} : num / (den * 2 ^ shiftOf num den) < 2 ^ 24 := by
  rw [← Nat.div_div_eq_div_mul]
  unfold shiftOf
  generalize num / den = q
  have hq : q < 2 ^ (q.log2 + 1) := Nat.lt_log2_self
  rw [Nat.div_lt_iff_lt_mul (by positivity), ← pow_add]
  exact hq.trans_le (Nat.pow_le_pow_right (by omega) (by omega))

/-- Above the subnormals the significand has 24 bits. -/
theorem le_quot {num den : Nat} (h : 0 < shiftOf num den) :
    2 ^ 23 ≤ num / (den * 2 ^ shiftOf num den) := by
  rw [← Nat.div_div_eq_div_mul]
  unfold shiftOf at *
  generalize num / den = q at *
  have hq0 : q ≠ 0 := by rintro rfl; simp at h
  have hq : 2 ^ q.log2 ≤ q := Nat.log2_self_le hq0
  rw [Nat.le_div_iff_mul_le (by positivity), ← pow_add]
  exact (Nat.pow_le_pow_right (by omega) (by omega)).trans hq

/-- Rounding is monotone (R8). -/
theorem roundUnits_mono {n1 d1 n2 d2 : Nat} (h1 : 0 < d1) (h2 : 0 < d2) (h : n1 * d2 ≤ n2 * d1) :
    roundUnits n1 d1 ≤ roundUnits n2 d2 := by
  rw [roundUnits_eq, roundUnits_eq]
  refine min_le_min_right _ ?_
  rcases Nat.lt_or_eq_of_le (shiftOf_mono h1 h2 h) with hlt | heq
  · have a := roundQuot_le n1 (d1 * 2 ^ shiftOf n1 d1)
    have b := quot_lt (num := n1) (den := d1)
    have c := le_quot (num := n2) (den := d2) (by omega)
    have d := le_roundQuot n2 (d2 * 2 ^ shiftOf n2 d2)
    omega
  · rw [heq]
    refine Nat.add_le_add_left (roundQuot_mono (by positivity) (by positivity) ?_) _
    calc n1 * (d2 * 2 ^ shiftOf n2 d2) = n1 * d2 * 2 ^ shiftOf n2 d2 := by ring
      _ ≤ n2 * d1 * 2 ^ shiftOf n2 d2 := Nat.mul_le_mul_right _ h
      _ = n2 * (d1 * 2 ^ shiftOf n2 d2) := by ring

theorem roundUnits_le_infMag (num den : Nat) : roundUnits num den ≤ infMag := by
  rw [roundUnits_eq]; exact min_le_right _ _

/-- A value that is a finite pattern's rounds to that pattern (R8). -/
theorem roundUnits_unitsOf {p : Nat} (hp : p < infMag) : roundUnits (unitsOf p) 1 = p := by
  have hp' : p < 0x7F800000 := hp
  by_cases h0 : p / 2 ^ 23 = 0
  · have hu : unitsOf p = p := by unfold unitsOf; rw [if_pos h0]
    have hlt : p < 2 ^ 23 := by omega
    have hs : shiftOf p 1 = 0 := by
      unfold shiftOf
      rw [Nat.div_one]
      rcases Nat.eq_zero_or_pos p with rfl | hpos
      · simp
      · have := (Nat.log2_lt (by omega)).mpr hlt; omega
    rw [hu, roundUnits_eq, hs, roundQuot_of_mod_eq_zero (by norm_num) (by simp [Nat.mod_one])]
    have : p ≤ infMag := by unfold infMag; omega
    simpa using this
  · have hu : unitsOf p = (2 ^ 23 + p % 2 ^ 23) * 2 ^ (p / 2 ^ 23 - 1) := by
      unfold unitsOf; rw [if_neg h0]
    have hm : 2 ^ 23 + p % 2 ^ 23 < 2 ^ 24 := by omega
    have hlog : Nat.log2 (unitsOf p) = 23 + (p / 2 ^ 23 - 1) := by
      have hne : unitsOf p ≠ 0 := by rw [hu]; positivity
      rw [Nat.log2_eq_iff hne, hu]
      constructor
      · rw [pow_add]; exact Nat.mul_le_mul_right _ (by omega)
      · rw [show 23 + (p / 2 ^ 23 - 1) + 1 = 24 + (p / 2 ^ 23 - 1) by omega, pow_add]
        exact Nat.mul_lt_mul_of_pos_right hm (by positivity)
    have hs : shiftOf (unitsOf p) 1 = p / 2 ^ 23 - 1 := by
      unfold shiftOf; rw [Nat.div_one, hlog]; omega
    have hq : roundQuot (unitsOf p) (1 * 2 ^ (p / 2 ^ 23 - 1)) = 2 ^ 23 + p % 2 ^ 23 := by
      rw [one_mul, roundQuot_of_mod_eq_zero (by positivity) (by rw [hu]; exact Nat.mul_mod_left _ _),
        hu, Nat.mul_div_cancel _ (by positivity)]
    rw [roundUnits_eq, hs, hq]
    have : (p / 2 ^ 23 - 1) * 2 ^ 23 + (2 ^ 23 + p % 2 ^ 23) = p := by omega
    rw [this]
    exact min_eq_left (by unfold infMag; omega)

/-- The order of patterns is the order of magnitudes (R7). -/
theorem unitsOf_strictMono {p q : Nat} (h : p < q) : unitsOf p < unitsOf q := by
  unfold unitsOf
  by_cases hp : p / 2 ^ 23 = 0 <;> by_cases hq : q / 2 ^ 23 = 0
  · rw [if_pos hp, if_pos hq]; exact h
  · rw [if_pos hp, if_neg hq]
    have : 1 ≤ 2 ^ (q / 2 ^ 23 - 1) := Nat.one_le_two_pow
    calc p < 2 ^ 23 := by omega
      _ ≤ 2 ^ 23 + q % 2 ^ 23 := by omega
      _ = (2 ^ 23 + q % 2 ^ 23) * 1 := by ring
      _ ≤ _ := Nat.mul_le_mul_left _ this
  · omega
  · rw [if_neg hp, if_neg hq]
    rcases Nat.lt_or_eq_of_le (Nat.div_le_div_right (c := 2 ^ 23) h.le) with hlt | heq
    · calc (2 ^ 23 + p % 2 ^ 23) * 2 ^ (p / 2 ^ 23 - 1)
          < 2 ^ 24 * 2 ^ (p / 2 ^ 23 - 1) := Nat.mul_lt_mul_of_pos_right (by omega) (by positivity)
        _ = 2 ^ 23 * 2 ^ (p / 2 ^ 23) := by
            rw [← pow_add, ← pow_add]; congr 1; omega
        _ ≤ 2 ^ 23 * 2 ^ (q / 2 ^ 23 - 1) :=
            Nat.mul_le_mul_left _ (Nat.pow_le_pow_right (by omega) (by omega))
        _ ≤ _ := Nat.mul_le_mul_right _ (by omega)
    · rw [heq]
      exact Nat.mul_lt_mul_of_pos_right (by omega) (by positivity)

/-- A sum or a value that is a finite pattern's exact units rounds to that pattern. -/
theorem roundInt_exactUnits {a : Word} (h : isFinite a = true) (hz : exactUnits a ≠ 0) (z : Bool) :
    roundInt (exactUnits a) z = a := by
  have hm : magBits a < infMag := by simpa [isFinite] using h
  have hlt := a.isLt
  unfold exactUnits at *
  unfold roundInt
  rw [if_neg hz]
  have hmsb : signBit a = decide (2 ^ 31 ≤ a.toNat) := by simp [signBit, BitVec.msb_eq_decide]
  by_cases hs : signBit a = true
  · simp only [hs, if_true] at hz ⊢
    have hpos : 0 < unitsOf (magBits a) := by omega
    have : (-(unitsOf (magBits a) : Int)) < 0 := by omega
    simp only [this, decide_true, Int.natAbs_neg, Int.natAbs_natCast, roundUnits_unitsOf hm, packSign,
      if_true]
    apply BitVec.eq_of_toNat_eq
    have h31 : 2 ^ 31 ≤ a.toNat := by simpa [hmsb] using hs
    simp only [BitVec.toNat_ofNat, magBits]
    omega
  · simp only [hs] at hz ⊢
    have : ¬ ((unitsOf (magBits a) : Int) < 0) := by omega
    simp only [Bool.false_eq_true, if_false, this, decide_false, Int.natAbs_natCast,
      roundUnits_unitsOf hm, packSign]
    apply BitVec.eq_of_toNat_eq
    have h31 : ¬ 2 ^ 31 ≤ a.toNat := by simpa [hmsb] using hs
    simp only [BitVec.toNat_ofNat, magBits]
    omega

/-- Whatever the free value, what is kept of it is one of the bounds or lies between them. -/
theorem between_cases (lo hi free : Word) : between lo hi free = lo ∨
    (between lo hi free = free ∧ orderKey lo ≤ orderKey free ∧ orderKey free ≤ orderKey hi) := by
  unfold between
  split
  · exact .inr ⟨rfl, by assumption⟩
  · exact .inl rfl

end Sys2Proof.Machine
end

