-- ==== Sys2Proof/Laws/State.lean ====
section
/-!
SUPPORT. What each update of the state does to each field, by definition.
-/

namespace Sys2Proof.Machine

variable (s : State)

@[simp] theorem raise_cfg (e : ErrorEvent) : (raise e s).cfg = s.cfg := rfl
@[simp] theorem raise_sticky (e : ErrorEvent) : (raise e s).sticky = setSticky s.sticky e := rfl
@[simp] theorem raise_fifo (e : ErrorEvent) : (raise e s).fifo = s.fifo := rfl
@[simp] theorem raise_globalVolume (e : ErrorEvent) : (raise e s).globalVolume = s.globalVolume := rfl
@[simp] theorem raise_blockTime (e : ErrorEvent) : (raise e s).blockTime = s.blockTime := rfl
@[simp] theorem raise_frameCount (e : ErrorEvent) : (raise e s).frameCount = s.frameCount := rfl
@[simp] theorem raise_oscs (e : ErrorEvent) : (raise e s).oscs = s.oscs := rfl
@[simp] theorem raise_pending (e : ErrorEvent) : (raise e s).pending = s.pending := rfl
@[simp] theorem raise_obs (e : ErrorEvent) : (raise e s).obs = s.obs := rfl
@[simp] theorem raise_extIn (e : ErrorEvent) : (raise e s).extIn = s.extIn := rfl
@[simp] theorem raise_extSerial (e : ErrorEvent) : (raise e s).extSerial = s.extSerial := rfl

@[simp] theorem clearErrors_cfg (d : Word) : (clearErrors d s).cfg = s.cfg := rfl
@[simp] theorem clearErrors_sticky (d : Word) : (clearErrors d s).sticky = clearSticky s.sticky d := rfl
@[simp] theorem clearErrors_fifo (d : Word) : (clearErrors d s).fifo = s.fifo := rfl
@[simp] theorem clearErrors_globalVolume (d : Word) : (clearErrors d s).globalVolume = s.globalVolume := rfl
@[simp] theorem clearErrors_blockTime (d : Word) : (clearErrors d s).blockTime = s.blockTime := rfl
@[simp] theorem clearErrors_frameCount (d : Word) : (clearErrors d s).frameCount = s.frameCount := rfl
@[simp] theorem clearErrors_oscs (d : Word) : (clearErrors d s).oscs = s.oscs := rfl
@[simp] theorem clearErrors_pending (d : Word) : (clearErrors d s).pending = s.pending := rfl
@[simp] theorem clearErrors_obs (d : Word) : (clearErrors d s).obs = s.obs := rfl
@[simp] theorem clearErrors_extIn (d : Word) : (clearErrors d s).extIn = s.extIn := rfl
@[simp] theorem clearErrors_extSerial (d : Word) : (clearErrors d s).extSerial = s.extSerial := rfl

@[simp] theorem modifyOsc_cfg (k : Nat) (f : Osc → Osc) : (modifyOsc k f s).cfg = s.cfg := rfl
@[simp] theorem modifyOsc_sticky (k : Nat) (f : Osc → Osc) : (modifyOsc k f s).sticky = s.sticky := rfl
@[simp] theorem modifyOsc_fifo (k : Nat) (f : Osc → Osc) : (modifyOsc k f s).fifo = s.fifo := rfl
@[simp] theorem modifyOsc_globalVolume (k : Nat) (f : Osc → Osc) : (modifyOsc k f s).globalVolume = s.globalVolume := rfl
@[simp] theorem modifyOsc_blockTime (k : Nat) (f : Osc → Osc) : (modifyOsc k f s).blockTime = s.blockTime := rfl
@[simp] theorem modifyOsc_frameCount (k : Nat) (f : Osc → Osc) : (modifyOsc k f s).frameCount = s.frameCount := rfl
@[simp] theorem modifyOsc_oscs (k : Nat) (f : Osc → Osc) : (modifyOsc k f s).oscs = s.oscs.modify k f := rfl
@[simp] theorem modifyOsc_pending (k : Nat) (f : Osc → Osc) : (modifyOsc k f s).pending = s.pending := rfl
@[simp] theorem modifyOsc_obs (k : Nat) (f : Osc → Osc) : (modifyOsc k f s).obs = s.obs := rfl
@[simp] theorem modifyOsc_extIn (k : Nat) (f : Osc → Osc) : (modifyOsc k f s).extIn = s.extIn := rfl
@[simp] theorem modifyOsc_extSerial (k : Nat) (f : Osc → Osc) : (modifyOsc k f s).extSerial = s.extSerial := rfl

@[simp] theorem setGlobalVolume_cfg (x : Word) : (setGlobalVolume x s).cfg = s.cfg := rfl
@[simp] theorem setGlobalVolume_sticky (x : Word) : (setGlobalVolume x s).sticky = s.sticky := rfl
@[simp] theorem setGlobalVolume_fifo (x : Word) : (setGlobalVolume x s).fifo = s.fifo := rfl
@[simp] theorem setGlobalVolume_globalVolume (x : Word) : (setGlobalVolume x s).globalVolume = x := rfl
@[simp] theorem setGlobalVolume_blockTime (x : Word) : (setGlobalVolume x s).blockTime = s.blockTime := rfl
@[simp] theorem setGlobalVolume_frameCount (x : Word) : (setGlobalVolume x s).frameCount = s.frameCount := rfl
@[simp] theorem setGlobalVolume_oscs (x : Word) : (setGlobalVolume x s).oscs = s.oscs := rfl
@[simp] theorem setGlobalVolume_pending (x : Word) : (setGlobalVolume x s).pending = s.pending := rfl
@[simp] theorem setGlobalVolume_obs (x : Word) : (setGlobalVolume x s).obs = s.obs := rfl
@[simp] theorem setGlobalVolume_extIn (x : Word) : (setGlobalVolume x s).extIn = s.extIn := rfl
@[simp] theorem setGlobalVolume_extSerial (x : Word) : (setGlobalVolume x s).extSerial = s.extSerial := rfl

@[simp] theorem pushTail_cfg (w : CmdWord) : (pushTail w s).cfg = s.cfg := rfl
@[simp] theorem pushTail_sticky (w : CmdWord) : (pushTail w s).sticky = s.sticky := rfl
@[simp] theorem pushTail_fifo (w : CmdWord) : (pushTail w s).fifo = s.fifo ++ [w] := rfl
@[simp] theorem pushTail_globalVolume (w : CmdWord) : (pushTail w s).globalVolume = s.globalVolume := rfl
@[simp] theorem pushTail_blockTime (w : CmdWord) : (pushTail w s).blockTime = s.blockTime := rfl
@[simp] theorem pushTail_frameCount (w : CmdWord) : (pushTail w s).frameCount = s.frameCount := rfl
@[simp] theorem pushTail_oscs (w : CmdWord) : (pushTail w s).oscs = s.oscs := rfl
@[simp] theorem pushTail_pending (w : CmdWord) : (pushTail w s).pending = s.pending := rfl
@[simp] theorem pushTail_obs (w : CmdWord) : (pushTail w s).obs = s.obs := rfl
@[simp] theorem pushTail_extIn (w : CmdWord) : (pushTail w s).extIn = s.extIn := rfl
@[simp] theorem pushTail_extSerial (w : CmdWord) : (pushTail w s).extSerial = s.extSerial := rfl

@[simp] theorem setFifo_cfg (ws : List CmdWord) : (setFifo ws s).cfg = s.cfg := rfl
@[simp] theorem setFifo_sticky (ws : List CmdWord) : (setFifo ws s).sticky = s.sticky := rfl
@[simp] theorem setFifo_fifo (ws : List CmdWord) : (setFifo ws s).fifo = ws := rfl
@[simp] theorem setFifo_globalVolume (ws : List CmdWord) : (setFifo ws s).globalVolume = s.globalVolume := rfl
@[simp] theorem setFifo_blockTime (ws : List CmdWord) : (setFifo ws s).blockTime = s.blockTime := rfl
@[simp] theorem setFifo_frameCount (ws : List CmdWord) : (setFifo ws s).frameCount = s.frameCount := rfl
@[simp] theorem setFifo_oscs (ws : List CmdWord) : (setFifo ws s).oscs = s.oscs := rfl
@[simp] theorem setFifo_pending (ws : List CmdWord) : (setFifo ws s).pending = s.pending := rfl
@[simp] theorem setFifo_obs (ws : List CmdWord) : (setFifo ws s).obs = s.obs := rfl
@[simp] theorem setFifo_extIn (ws : List CmdWord) : (setFifo ws s).extIn = s.extIn := rfl
@[simp] theorem setFifo_extSerial (ws : List CmdWord) : (setFifo ws s).extSerial = s.extSerial := rfl

@[simp] theorem respond_cfg (r : Response) : (respond r s).cfg = s.cfg := rfl
@[simp] theorem respond_sticky (r : Response) : (respond r s).sticky = s.sticky := rfl
@[simp] theorem respond_fifo (r : Response) : (respond r s).fifo = s.fifo := rfl
@[simp] theorem respond_globalVolume (r : Response) : (respond r s).globalVolume = s.globalVolume := rfl
@[simp] theorem respond_blockTime (r : Response) : (respond r s).blockTime = s.blockTime := rfl
@[simp] theorem respond_frameCount (r : Response) : (respond r s).frameCount = s.frameCount := rfl
@[simp] theorem respond_oscs (r : Response) : (respond r s).oscs = s.oscs := rfl
@[simp] theorem respond_pending (r : Response) : (respond r s).pending = s.pending := rfl
@[simp] theorem respond_obs (r : Response) : (respond r s).obs = s.obs ++ [r] := rfl
@[simp] theorem respond_extIn (r : Response) : (respond r s).extIn = s.extIn := rfl
@[simp] theorem respond_extSerial (r : Response) : (respond r s).extSerial = s.extSerial := rfl

@[simp] theorem dropExt_cfg (j n : Nat) : (dropExt j n s).cfg = s.cfg := rfl
@[simp] theorem dropExt_sticky (j n : Nat) : (dropExt j n s).sticky = s.sticky := rfl
@[simp] theorem dropExt_fifo (j n : Nat) : (dropExt j n s).fifo = s.fifo := rfl
@[simp] theorem dropExt_globalVolume (j n : Nat) : (dropExt j n s).globalVolume = s.globalVolume := rfl
@[simp] theorem dropExt_blockTime (j n : Nat) : (dropExt j n s).blockTime = s.blockTime := rfl
@[simp] theorem dropExt_frameCount (j n : Nat) : (dropExt j n s).frameCount = s.frameCount := rfl
@[simp] theorem dropExt_oscs (j n : Nat) : (dropExt j n s).oscs = s.oscs := rfl
@[simp] theorem dropExt_pending (j n : Nat) : (dropExt j n s).pending = s.pending := rfl
@[simp] theorem dropExt_obs (j n : Nat) : (dropExt j n s).obs = s.obs := rfl
@[simp] theorem dropExt_extIn (j n : Nat) : (dropExt j n s).extIn = s.extIn.modify j (List.drop n) := rfl
@[simp] theorem dropExt_extSerial (j n : Nat) : (dropExt j n s).extSerial = s.extSerial := rfl

@[simp] theorem advanceClock_cfg (n : Word) : (advanceClock n s).cfg = s.cfg := rfl
@[simp] theorem advanceClock_sticky (n : Word) : (advanceClock n s).sticky = s.sticky := rfl
@[simp] theorem advanceClock_fifo (n : Word) : (advanceClock n s).fifo = s.fifo := rfl
@[simp] theorem advanceClock_globalVolume (n : Word) : (advanceClock n s).globalVolume = s.globalVolume := rfl
@[simp] theorem advanceClock_blockTime (n : Word) : (advanceClock n s).blockTime = add32 s.blockTime (div32 (i2f32 n.toNat) (sr32 s.cfg)) := rfl
@[simp] theorem advanceClock_frameCount (n : Word) : (advanceClock n s).frameCount = s.frameCount + n.zeroExtend 64 := rfl
@[simp] theorem advanceClock_oscs (n : Word) : (advanceClock n s).oscs = s.oscs := rfl
@[simp] theorem advanceClock_pending (n : Word) : (advanceClock n s).pending = s.pending := rfl
@[simp] theorem advanceClock_obs (n : Word) : (advanceClock n s).obs = s.obs := rfl
@[simp] theorem advanceClock_extIn (n : Word) : (advanceClock n s).extIn = s.extIn := rfl
@[simp] theorem advanceClock_extSerial (n : Word) : (advanceClock n s).extSerial = s.extSerial + 1 := rfl

@[simp] theorem resetStep_cfg : (resetStep s).cfg = s.cfg := rfl
@[simp] theorem resetStep_sticky : (resetStep s).sticky = 0#5 := rfl
@[simp] theorem resetStep_fifo : (resetStep s).fifo = [] := rfl
@[simp] theorem resetStep_globalVolume : (resetStep s).globalVolume = s.cfg.resetVolume := rfl
@[simp] theorem resetStep_blockTime : (resetStep s).blockTime = zero32 := rfl
@[simp] theorem resetStep_frameCount : (resetStep s).frameCount = 0#64 := rfl
@[simp] theorem resetStep_oscs : (resetStep s).oscs = s.cfg.instances.map resetOsc := rfl
@[simp] theorem resetStep_pending : (resetStep s).pending = s.pending := rfl
@[simp] theorem resetStep_obs : (resetStep s).obs = s.obs := rfl
@[simp] theorem resetStep_extIn : (resetStep s).extIn = s.extIn := rfl
@[simp] theorem resetStep_extSerial : (resetStep s).extSerial = s.extSerial := rfl

@[simp] theorem placeCommand_cfg (w : CmdWord) : (placeCommand w s).cfg = s.cfg := rfl
@[simp] theorem placeCommand_sticky (w : CmdWord) : (placeCommand w s).sticky = s.sticky := rfl
@[simp] theorem placeCommand_fifo (w : CmdWord) : (placeCommand w s).fifo = [w] := rfl
@[simp] theorem placeCommand_globalVolume (w : CmdWord) : (placeCommand w s).globalVolume = s.globalVolume := rfl
@[simp] theorem placeCommand_blockTime (w : CmdWord) : (placeCommand w s).blockTime = s.blockTime := rfl
@[simp] theorem placeCommand_frameCount (w : CmdWord) : (placeCommand w s).frameCount = s.frameCount := rfl
@[simp] theorem placeCommand_oscs (w : CmdWord) : (placeCommand w s).oscs = s.oscs := rfl
@[simp] theorem placeCommand_pending (w : CmdWord) : (placeCommand w s).pending = .block 0#32 :: s.pending := rfl
@[simp] theorem placeCommand_obs (w : CmdWord) : (placeCommand w s).obs = s.obs := rfl
@[simp] theorem placeCommand_extIn (w : CmdWord) : (placeCommand w s).extIn = s.extIn := rfl
@[simp] theorem placeCommand_extSerial (w : CmdWord) : (placeCommand w s).extSerial = s.extSerial := rfl

end Sys2Proof.Machine
end

