-- ==== Sys2Proof/Laws/Ops.lean ====
section
/-!
SUPPORT. What each shared operation over the state can do, said once.
-/

namespace Sys2Proof.Machine

/-! ### Commands -/

/-- Every way a command can end: it never stops the machine. -/
theorem exec_cases {i : Instr} {s t : State} (h : exec i s = .next t) :
    t = s ∨ (∃ e, t = raise e s) ∨
    (∃ x, legalVolume x = true ∧ t = setGlobalVolume x s) ∨
    (∃ k r x, legalValue r x = true ∧
      t = modifyOsc k (fun o => { o with params := setParam o.params r x }) s) ∨
    (∃ k key, t = modifyOsc k (fun o =>
      { o with voices := o.voices.map (releaseVoice s.cfg.keyOffReleasesIdle key) }) s) ∨
    (∃ k key vel, t = keyOnInstance k key vel s) := by
  cases i with
  | nop => simp only [exec, execNop, Host.Outcome.next.injEq] at h; exact .inl h.symm
  | keyOn inst key vel =>
    simp only [exec, execKeyOn] at h
    split at h <;> simp only [Host.Outcome.next.injEq] at h <;> subst h
    · exact .inr (.inr (.inr (.inr (.inr ⟨_, _, _, rfl⟩))))
    · exact .inr (.inl ⟨_, rfl⟩)
  | keyOff inst key =>
    simp only [exec, execKeyOff] at h
    split at h <;> simp only [Host.Outcome.next.injEq] at h <;> subst h
    · exact .inr (.inr (.inr (.inr (.inl ⟨_, _, rfl⟩))))
    · exact .inr (.inl ⟨_, rfl⟩)
  | writeReg inst reg value =>
    simp only [exec, execWriteReg] at h
    split at h
    · simp only [Host.Outcome.next.injEq, writeGlobal] at h
      split at h
      · split at h
        · rename_i hv; exact .inr (.inr (.inl ⟨_, hv, h.symm⟩))
        · exact .inr (.inl ⟨_, h.symm⟩)
      · exact .inr (.inl ⟨_, h.symm⟩)
    · split at h
      · simp only [Host.Outcome.next.injEq, writeInstance] at h
        split at h
        · exact .inr (.inl ⟨_, h.symm⟩)
        · split at h
          · rename_i hv; exact .inr (.inr (.inr (.inl ⟨_, _, _, hv, h.symm⟩)))
          · exact .inr (.inl ⟨_, h.symm⟩)
      · simp only [Host.Outcome.next.injEq] at h
        exact .inr (.inl ⟨_, h.symm⟩)

/-- A command always answers a next state. -/
theorem exec_ne_stop (i : Instr) (s : State) : ∃ t, exec i s = .next t := by
  cases i with
  | nop => exact ⟨_, rfl⟩
  | keyOn => simp only [exec, execKeyOn]; split <;> exact ⟨_, rfl⟩
  | keyOff => simp only [exec, execKeyOff]; split <;> exact ⟨_, rfl⟩
  | writeReg =>
    simp only [exec, execWriteReg]
    split
    · exact ⟨_, rfl⟩
    · split <;> exact ⟨_, rfl⟩

/-- A drained word is executed as its command, or raises BadCmd. -/
theorem execWord_cases {w : CmdWord} {s t : State} (h : execWord w s = .next t) :
    (∃ i, decodeWord w = .ok i ∧ exec i s = .next t) ∨ t = raise .badCmd s := by
  unfold execWord at h
  split at h
  · exact .inl ⟨_, by assumption, h⟩
  · simp only [Host.Outcome.next.injEq] at h
    exact .inr h.symm

/-- What every word keeps, a drain keeps. -/
theorem drain_keeps (P : State → Prop)
    (hw : ∀ (w : CmdWord) (ws : List CmdWord) (s t : State), P s →
      execWord w (setFifo ws s) = .next t → P t) :
    ∀ (ws : List CmdWord) (s t : State), P s → drain ws s = .next t → P t := by
  intro ws
  induction ws with
  | nil =>
    intro s t hs h
    simp only [drain, Host.Outcome.next.injEq] at h
    exact h ▸ hs
  | cons w ws ih =>
    intro s t hs h
    simp only [drain] at h
    split at h
    · exact ih _ _ (hw w ws s _ hs (by assumption)) h
    · simp at h
    · simp at h

/-! ### Placing voices -/

theorem firstIdle_some {vs : List Voice} {j : Nat} (h : firstIdle vs = some j) :
    ∃ v, vs[j]? = some v ∧ v.stage = .idle := by
  unfold firstIdle at h
  obtain ⟨hj, hp, -⟩ := List.findIdx?_eq_some_iff_getElem.mp h
  refine ⟨vs[j], by simp [hj], ?_⟩
  simpa [isActive] using hp

theorem placeFrom_length (p : Params) (key vel : Byte) (n left i : Nat) (vs : List Voice) :
    (placeFrom p key vel n left i vs).1.length = vs.length := by
  induction left generalizing i vs with
  | zero => rfl
  | succ left ih =>
    simp only [placeFrom]
    split
    · rfl
    · rw [ih]; simp

/-- Each voice of the pool a KEY_ON leaves was there before, or is an idle voice with a position
placed on it. -/
theorem placeFrom_mem {p : Params} {key vel : Byte} {n left i : Nat} {vs : List Voice} {v : Voice}
    (h : v ∈ (placeFrom p key vel n left i vs).1) :
    v ∈ vs ∨ ∃ u m, u ∈ vs ∧ v = placeUnison p key vel n m u := by
  induction left generalizing i vs with
  | zero => exact .inl h
  | succ left ih =>
    simp only [placeFrom] at h
    split at h
    · exact .inl h
    · rename_i j hj
      obtain ⟨u, hu, hidle⟩ := firstIdle_some hj
      have key_mem : ∀ w, w ∈ vs.modify j (placeUnison p key vel n i) →
          w ∈ vs ∨ w = placeUnison p key vel n i u := by
        intro w hw
        obtain ⟨m, hm⟩ := List.mem_iff_getElem?.mp hw
        rw [List.getElem?_modify] at hm
        by_cases hjm : j = m
        · subst hjm
          simp only [hu, if_true, Option.map_eq_map, Option.map_some, Option.some.injEq] at hm
          exact .inr hm.symm
        · simp only [hjm, if_false, Option.map_eq_map, Option.map_id'] at hm
          exact .inl (List.mem_iff_getElem?.mpr ⟨m, by simpa using hm⟩)
      have umem : u ∈ vs := List.mem_iff_getElem?.mpr ⟨j, hu⟩
      rcases ih h with hv | ⟨w, m, hw, rfl⟩
      · rcases key_mem v hv with hv | hv
        · exact .inl hv
        · exact .inr ⟨u, i, umem, hv⟩
      · rcases key_mem w hw with hw | rfl
        · exact .inr ⟨w, m, hw, rfl⟩
        · refine .inr ⟨u, m, umem, ?_⟩
          simp [placeUnison, placeVoice]

/-- Whatever the free value, what is kept of it is a binary32 value in [0, 1]. -/
theorem unitFree_inRange (free : Word) : inRange32 zero32 one32 (unitFree free) = true := by
  unfold unitFree
  split
  · rename_i h
    have h1 : free.toNat ≤ 0x3F800000 := h
    have hs : signBit free = false := by
      rw [signBit, BitVec.msb_eq_decide]; simp; omega
    have hm : magBits free = free.toNat := by unfold magBits; omega
    have hn : isNaN free = false := by simp [isNaN, hm, infMag]; omega
    have hk : orderKey free = (free.toNat : Int) := by simp [orderKey, hs, hm]
    have hz : isNaN zero32 = false ∧ isNaN one32 = false ∧ orderKey zero32 = 0 ∧
      orderKey one32 = 0x3F800000 := by decide
    simp only [inRange32, ge32, le32, hn, hz, hk]
    simp; omega
  · decide

/-! ### Instances -/

/-- An instance after `modifyOsc` was there before, or is the changed one. -/
theorem modifyOsc_mem {k : Nat} {f : Osc → Osc} {s : State} {o : Osc}
    (h : o ∈ (modifyOsc k f s).oscs) : o ∈ s.oscs ∨ ∃ u ∈ s.oscs, o = f u := by
  obtain ⟨m, hm⟩ := List.mem_iff_getElem?.mp h
  rw [modifyOsc_oscs, List.getElem?_modify] at hm
  cases hu : s.oscs[m]? with
  | none => simp [hu] at hm
  | some u =>
    have umem : u ∈ s.oscs := List.mem_iff_getElem?.mpr ⟨m, hu⟩
    by_cases hkm : k = m
    · simp [hu, hkm] at hm
      exact .inr ⟨u, umem, hm.symm⟩
    · simp [hu, hkm] at hm
      exact .inl (hm ▸ umem)

/-- What a change of instance k keeps of the instances in order. -/
theorem modifyOsc_map {α : Type} (g : Osc → α) (k : Nat) (f : Osc → Osc) (s : State)
    (h : ∀ o, s.oscs[k]? = some o → g (f o) = g o) :
    (modifyOsc k f s).oscs.map g = s.oscs.map g := by
  apply List.ext_getElem?
  intro m
  simp only [modifyOsc_oscs, List.getElem?_map, List.getElem?_modify]
  cases hu : s.oscs[m]? with
  | none => simp
  | some u =>
    by_cases hkm : k = m
    · subst hkm; simp [h u hu]
    · simp [hkm]

/-! ### Rendering -/

/-- All that a tick can change of a voice (R160). -/
theorem tick_frame (p : Params) (dt : Word) (v : Voice) :
    tick p dt v = { v with
      stage := (tick p dt v).stage
      stageTime := (tick p dt v).stageTime
      volume := (tick p dt v).volume } := by
  let note := fun w : Voice => (w.key, w.actualNote, w.velocity, w.panning, w.phase, w.noise)
  have h1 : ∀ w, note (tickDelay p w) = note w := by
    intro w; simp only [note, tickDelay, leaveStage]; split_ifs <;> rfl
  have h2 : ∀ w, note (tickAttack p w) = note w := by
    intro w; simp only [note, tickAttack, leaveStage]; split_ifs <;> rfl
  have h3 : ∀ w, note (tickHold p w) = note w := by
    intro w; simp only [note, tickHold, leaveStage]; split_ifs <;> rfl
  have h4 : ∀ w, note (tickDecay p w) = note w := by
    intro w; simp only [note, tickDecay, leaveStage]; split_ifs <;> rfl
  have h5 : ∀ w, note (tickSustain p w) = note w := by
    intro w; simp only [note, tickSustain, endNote]; split_ifs <;> rfl
  have h6 : ∀ w, note (tickRelease p dt w) = note w := by
    intro w; simp only [note, tickRelease, endNote]; split_ifs <;> rfl
  have h : note (tick p dt v) = note v := by
    unfold tick
    split
    · rfl
    · rw [h6, h5, h4, h3, h2, h1]
  generalize tick p dt v = w at h
  cases v; cases w
  simpa [note] using h


theorem oscFrame_length (c : Config) (p : Params) (vol : Word) (vs : List Voice) (cell : Frame) :
    (oscFrame c p vol vs cell).1.length = vs.length := by
  induction vs generalizing cell with
  | nil => rfl
  | cons v vs ih => simp [oscFrame, ih]

theorem oscBlock_length (c : Config) (p : Params) (vol : Word) (vs : List Voice)
    (cells : List Frame) :
    (oscBlock c p vol vs cells).1.length = vs.length ∧
      (oscBlock c p vol vs cells).2.length = cells.length := by
  induction cells generalizing vs with
  | nil => exact ⟨rfl, rfl⟩
  | cons cell cells ih => simp [oscBlock, ih, oscFrame_length]

/-- What the frame step of every voice keeps, an instance's frame keeps. -/
theorem oscFrame_keeps (P : Voice → Prop) (c : Config) (p : Params) (vol : Word)
    (hv : ∀ v cell, P v → P (voiceFrame c p vol v cell).1) (vs : List Voice) (cell : Frame)
    (h : ∀ v ∈ vs, P v) : ∀ v ∈ (oscFrame c p vol vs cell).1, P v := by
  induction vs generalizing cell with
  | nil => intro v hv'; simp [oscFrame] at hv'
  | cons u us ih =>
    intro v hmem
    simp only [oscFrame, List.mem_cons] at hmem
    rcases hmem with rfl | hmem
    · exact hv u cell (h u (by simp))
    · exact ih _ (fun w hw => h w (by simp [hw])) v hmem

/-- What the frame step of every voice keeps, a whole block keeps. -/
theorem oscBlock_keeps (P : Voice → Prop) (c : Config) (p : Params) (vol : Word)
    (hv : ∀ v cell, P v → P (voiceFrame c p vol v cell).1) (vs : List Voice) (cells : List Frame)
    (h : ∀ v ∈ vs, P v) : ∀ v ∈ (oscBlock c p vol vs cells).1, P v := by
  induction cells generalizing vs with
  | nil => simpa [oscBlock] using h
  | cons cell cells ih => exact ih _ (oscFrame_keeps P c p vol hv vs cell h)

/-- What every source keeps, rendering keeps; the environment's fields and the registers it does not
touch are read off `renderSource_state`. -/
theorem renderSources_keeps (P : State → Prop) (n : Nat)
    (hs : ∀ r src, P r.1 → P (renderSource n r src).1) (s : State) (h : P s) :
    P (renderSources n s).1 := by
  unfold renderSources
  generalize s.cfg.registry = srcs
  suffices H : ∀ r : State × List Frame, P r.1 → P (srcs.foldl (renderSource n) r).1 from H _ h
  induction srcs with
  | nil => intro r hr; exact hr
  | cons src srcs ih => intro r hr; exact ih _ (hs r src hr)

/-- A source either leaves the state, or renders one instance's voices, or uses up a stream. -/
theorem renderSource_state (n : Nat) (r : State × List Frame) (src : Source) :
    (renderSource n r src).1 = r.1 ∨
    (∃ k o, src = .osc k ∧ r.1.oscs[k]? = some o ∧ (renderSource n r src).1 =
      modifyOsc k (fun u => { u with
        voices := (oscBlock r.1.cfg o.params r.1.globalVolume o.voices r.2).1 }) r.1) ∨
    (∃ j, src = .ext j ∧ (renderSource n r src).1 = dropExt j n r.1) := by
  cases src with
  | osc k =>
    simp only [renderSource]
    split
    · exact .inl rfl
    · exact .inr (.inl ⟨k, _, rfl, by assumption, rfl⟩)
  | ext j => exact .inr (.inr ⟨j, rfl, rfl⟩)

/-! ### Steps -/

/-- Everything a step that answers can have done. -/
theorem step_cases {s t : State} (h : step s = .next t) :
    configWellFormed s.cfg = true ∧
    ((s.pending = [] ∧ t = s) ∨
     ∃ op ops, s.pending = op :: ops ∧
      ((∃ w, op = .push w ∧ t = pushStep w { s with pending := ops }) ∨
       (∃ a, op = .read a ∧ t = readStep a { s with pending := ops }) ∨
       (∃ a d, op = .write a d ∧ t = writeStep a d { s with pending := ops }) ∨
       (op = .reset ∧ t = resetStep { s with pending := ops }) ∨
       (∃ n u, op = .block n ∧ s.cfg.sinkPresent = true ∧ n.toNat ≤ s.cfg.maxBlock ∧
          drain s.fifo { s with pending := ops } = .next u ∧ t = renderBlock n u))) := by
  unfold step at h
  split at h
  · refine ⟨by assumption, ?_⟩
    unfold nextOperation at h
    split at h
    · simp only [Host.Outcome.next.injEq] at h
      exact .inl ⟨by assumption, h.symm⟩
    · rename_i op ops hp
      refine .inr ⟨op, ops, hp, ?_⟩
      cases op with
      | push w =>
        simp only [portStep, Host.Outcome.next.injEq] at h
        exact .inl ⟨w, rfl, h.symm⟩
      | read a =>
        simp only [portStep, Host.Outcome.next.injEq] at h
        exact .inr (.inl ⟨a, rfl, h.symm⟩)
      | write a d =>
        simp only [portStep, Host.Outcome.next.injEq] at h
        exact .inr (.inr (.inl ⟨a, d, rfl, h.symm⟩))
      | reset =>
        simp only [portStep, Host.Outcome.next.injEq] at h
        exact .inr (.inr (.inr (.inl ⟨rfl, h.symm⟩)))
      | block n =>
        simp only [portStep, sinkStep] at h
        split at h
        · simp at h
        · split at h
          · simp at h
          · rename_i hsink hmax
            unfold blockStep at h
            split at h
            · simp only [Host.Outcome.next.injEq] at h
              exact .inr (.inr (.inr (.inr ⟨n, _, rfl, by simpa using hsink, by omega,
                by assumption, h.symm⟩)))
            · simp at h
            · simp at h
  · simp at h

end Sys2Proof.Machine
end

