-- ==== Sys2Proof/Laws/PerInstr.lean ====
section
/-!
SUPPORT. Families of statements about commands as syntax, one lemma per constructor.
-/

namespace Sys2Proof.Laws

/-- The word of a command matches its own row of the opcode table (R96). -/
def RowMatch.Statement (i : Instr) : Prop := encode i &&& rowMask i = rowMatch i

theorem RowMatch.nop : RowMatch.Statement .nop := rfl

theorem RowMatch.keyOn (inst key vel : Byte) : RowMatch.Statement (.keyOn inst key vel) := by
  show packFields 0#32 inst vel key 0x01#8 &&& 0xFFFFFFFF000000FF#64 = 0x0000000000000001#64
  ext i hi
  simp only [packFields, BitVec.getElem_and, BitVec.getElem_append]
  interval_cases i <;> simp

theorem RowMatch.keyOff (inst key : Byte) : RowMatch.Statement (.keyOff inst key) := by
  show packFields 0#32 inst 0#8 key 0x02#8 &&& 0xFFFFFFFF00FF00FF#64 = 0x0000000000000002#64
  ext i hi
  simp only [packFields, BitVec.getElem_and, BitVec.getElem_append]
  interval_cases i <;> simp

theorem RowMatch.writeReg (inst reg : Byte) (value : Word) :
    RowMatch.Statement (.writeReg inst reg value) := by
  show packFields value inst 0#8 reg 0x03#8 &&& 0x0000000000FF00FF#64 = 0x0000000000000003#64
  ext i hi
  simp only [packFields, BitVec.getElem_and, BitVec.getElem_append]
  interval_cases i <;> simp

end Sys2Proof.Laws
end

