-- ==== Sys2Proof/Tests/Slice0.lean ====
section
/-!
SUPPORT. Tests whose expected values are those of spec/95_test_vectors.md (the vector's id stands with
each), the check of every rejection, and a witness for the hypotheses of every obligation that has any.
-/

namespace Sys2Proof.Tests

open Sys2Proof.Machine

-- One thread: many kernel evaluations at once would exceed the check's limit on memory for stacks.
set_option Elab.async false

/-! ### Helpers -/

/-- What f says of the next state; none for a fault or a refusal. -/
def after {α : Type} (r : Host.Outcome State Fault Refusal) (f : State → α) : Option α :=
  match r with
  | .next t => some (f t)
  | .fault _ => none
  | .refused _ => none

/-- Why there is no next state, where the step refuses. -/
def refusal (r : Host.Outcome State Fault Refusal) : Option Refusal :=
  match r with
  | .refused e => some e
  | _ => none

/-- The default configuration with pools of n voices. -/
def withVoices (n : Nat) : Config := { defaultConfig with instances := [defaultInstance n] }

/-- The reset state with pools of n voices. -/
def resetN (n : Nat) : State := State.resetWith (withVoices n)

/-- s with these words queued and a BLOCK of no frames asked for. -/
def queued (ws : List CmdWord) (s : State) : State :=
  { s with fifo := ws, pending := [.block 0#32] }

/-- s asked for one port operation. -/
def asked (op : PortOp) (s : State) : State := { s with pending := [op] }

/-- STATUS after the step that drains these words. -/
def statusAfter (ws : List CmdWord) : Option Word :=
  after (step (queued ws (resetN 2))) fun t => memRead t 0xFF000000#32

/-- A voice in a stage, with a stage time and a volume. -/
def voiceIn (stage : Stage) (time volume : Word) : Voice :=
  { resetVoice 1#32 with stage := stage, stageTime := time, volume := volume }

/-- Stage, stage time and volume. -/
def env (v : Voice) : Stage × Word × Word := (v.stage, v.stageTime, v.volume)

/-- The parameters of section 1.1. -/
def paramsE1 : Params := { defaultParams with
  attack := 0x3DCCCCCD#32, decay := 0x3ECCCCCD#32, sustain := 0x3F000000#32, release := 0x3F800000#32 }

/-- The pool of instance 0 set. -/
def withPool (vs : List Voice) (p : Params) (s : State) : State := { s with oscs := [⟨p, vs⟩] }

/-! ### Decoding: words written out bit by bit from R90, {DATA, INST, B, A, OPC} -/

theorem test_decode_nop_bits : decodeWord
    0b00000000000000000000000000000000_00000000_00000000_00000000_00000000#64 = .ok .nop := by decide
theorem test_decode_keyOn_bits : decodeWord
    0b00000000000000000000000000000000_00000010_01111111_01000101_00000001#64 =
      .ok (.keyOn 2#8 69#8 127#8) := by decide
theorem test_decode_keyOff_bits : decodeWord
    0b00000000000000000000000000000000_00000010_00000000_01000101_00000010#64 =
      .ok (.keyOff 2#8 69#8) := by decide
theorem test_decode_writeReg_bits : decodeWord
    0b00111110100000000000000000000000_11111111_00000000_00000011_00000011#64 =
      .ok (.writeReg 0xFF#8 0x03#8 0x3E800000#32) := by decide

/-- X-2, X-3, X-5, X-8, X-10: each word no row matches is rejected by name. -/
theorem test_decode_rejects :
    decodeWord 0x0000000001000000#64 = .error (.mustBeZero 0#8) ∧
    decodeWord 0x0000000000000004#64 = .error (.reservedOpcode 4#8) ∧
    decodeWord 0x00000000000000FF#64 = .error (.reservedOpcode 255#8) ∧
    decodeWord 0x0000000100643C01#64 = .error (.mustBeZero 1#8) ∧
    decodeWord 0x0000000000013C02#64 = .error (.mustBeZero 2#8) ∧
    decodeWord 0x0000000000010E03#64 = .error (.mustBeZero 3#8) := by decide

/-- R75: byte 0 is OPC; seven bytes are no command. -/
theorem test_decode_bytes :
    decode [0x01#8, 0x45#8, 0x7F#8, 0#8, 0#8, 0#8, 0#8, 0#8, 0xAA#8] =
      .ok (.keyOn 0#8 69#8 127#8, [0xAA#8]) ∧
    decode [0x01#8, 0x45#8, 0x7F#8, 0#8, 0#8, 0#8, 0#8] = .error .truncated := by decide

theorem test_decodeTableWord :
    decodeTableWord 64 0 = some .nop ∧ decodeTableWord 64 1 = some (.keyOn 0#8 0#8 0#8) ∧
    decodeTableWord 64 2 = some (.keyOff 0#8 0#8) ∧
    decodeTableWord 64 0x3FC0000000000403 = some (.writeReg 0#8 4#8 0x3FC00000#32) ∧
    decodeTableWord 64 4 = none := by decide

/-! ### Well-formedness: an ill-formed term for each check -/

theorem test_wellFormed_inst :
    (Instr.keyOn 1#8 60#8 100#8).wellFormed 1 = false ∧ (Instr.keyOn 0#8 60#8 100#8).wellFormed 1 = true ∧
    (Instr.keyOff 0xFF#8 60#8).wellFormed 255 = false ∧ (Instr.keyOff 254#8 60#8).wellFormed 255 = true ∧
    (Instr.writeReg 1#8 4#8 0#32).wellFormed 1 = false ∧
    (Instr.writeReg 0xFF#8 3#8 0#32).wellFormed 1 = true := by decide

theorem test_config_default : configWellFormed defaultConfig = true := by decide +kernel

/-- Each range of R4 and each condition of R5, broken alone. -/
theorem test_config_rejects :
    [{ defaultConfig with instances := [], registry := [] },
     { defaultConfig with instances := [{ seeds := [], resetParams := defaultParams }] },
     { defaultConfig with instances := [{ seeds := [0#32], resetParams := defaultParams }] },
     { defaultConfig with instances :=
        [{ seeds := [1#32], resetParams := { defaultParams with unisonCount := 0#32 } }] },
     { defaultConfig with next := 256 },
     { defaultConfig with registry := [.osc 0, .osc 0] },
     { defaultConfig with registry := [.osc 1] },
     { defaultConfig with registry := [.ext 0] },
     { defaultConfig with sampleRate := 0 }, { defaultConfig with sampleRate := 16777217 },
     { defaultConfig with maxBlock := 0 }, { defaultConfig with maxBlock := 2147483648 },
     { defaultConfig with fifoDepth := 0 }, { defaultConfig with fifoDepth := 65536 },
     { defaultConfig with panTable := [] },
     { defaultConfig with panTable := List.replicate 255 0x3F800001#32 },
     { defaultConfig with resetVolume := 0x47800001#32 }].all
      (fun c => !configWellFormed c) = true := by decide +kernel

/-! ### The commands, one step each -/

/-- X-1, X-6, X-7, X-9, X-17: NOP, and INST out of range. -/
theorem test_status_inst_range :
    statusAfter [0x0000000000000000#64] = some 0x00#32 ∧
    statusAfter [0x00000000FF643C01#64] = some 0x02#32 ∧
    statusAfter [0x0000000001643C01#64] = some 0x02#32 ∧
    statusAfter [0x00000000FF003C02#64] = some 0x02#32 ∧
    statusAfter [0x3F00000001000403#64] = some 0x02#32 := by decide +kernel

/-- X-10, X-11, X-12, X-14, X-15, X-16: the check order, and what WRITE_REG may not write. -/
theorem test_status_bad_reg :
    statusAfter [0x0000000000010E03#64] = some 0x02#32 ∧
    statusAfter [0x0000000000000E03#64] = some 0x04#32 ∧
    statusAfter [0x0000000800000C03#64] = some 0x04#32 ∧
    statusAfter [0x0000000000008003#64] = some 0x04#32 ∧
    statusAfter [0x00000000FF000003#64] = some 0x04#32 ∧
    statusAfter [0x3F000000FF000403#64] = some 0x04#32 := by decide +kernel

/-- X-18, X-20, X-21, X-22, X-25, X-26, X-28, X-29, X-31, X-33, X-37: illegal values. -/
theorem test_status_bad_val :
    [0x0000000500000603#64, 0x3F80000000000603#64, 0x0000000000000803#64, 0x0000010000000803#64,
     0x3FC0000000000403#64, 0x7FC0000000000403#64, 0xBF80000000000103#64, 0x7F80000000000103#64,
     0x4380000100000903#64, 0x3F80000100000B03#64, 0x47800200FF000303#64].all
      (fun w => decide (statusAfter [w] = some 0x08#32)) = true := by decide +kernel

/-- X-39: one drain, several sticky bits. -/
theorem test_status_several : statusAfter
    [0x0000000000000004#64, 0x0000000000000E03#64, 0x3FC0000000000403#64] = some 0x0E#32 := by
  decide +kernel

/-- X-27 and X-34: -0.0 is a legal ATTACK, and -3.5 a legal PHASE_SPREAD. -/
theorem test_writeReg_stores :
    after (exec (.writeReg 0#8 0x01#8 0x80000000#32) (resetN 1))
      (fun t => (memRead t 0x00000001#32, memRead t 0xFF000000#32)) = some (0x80000000#32, 0#32) ∧
    after (exec (.writeReg 0#8 0x0A#8 0xC0600000#32) (resetN 1))
      (fun t => memRead t 0x0000000A#32) = some 0xC0600000#32 := by decide +kernel

/-- X-38 and X-40: GLOBAL_VOLUME, and the order inside a drain. -/
theorem test_writeReg_order :
    after (step (queued [0x3E800000FF000303#64, 0x3F00000000000403#64, 0x3E80000000000403#64] (resetN 1)))
      (fun t => (memRead t 0xFF000003#32, memRead t 0x00000004#32)) =
        some (0x3E800000#32, 0x3E800000#32) := by decide +kernel

/-- U-5: four voices, with the rounding of the pans. -/
theorem test_keyOn_unison :
    after (exec (.keyOn 0#8 64#8 127#8) { resetN 5 with oscs := [⟨{ defaultParams with
        unisonCount := 4#32, detuneDepth := 0x3E99999A#32, phaseSpread := 0x3DCCCCCD#32,
        stereoWidth := 0x3F666666#32 }, (resetOsc (defaultInstance 5)).voices⟩] })
      (fun t => t.oscs.flatMap fun o => o.voices.map fun v =>
        (v.actualNote, v.panning, v.phase, v.velocity)) =
    some [(0x427F6666#32, 0xBF666666#32, 0x3F733333#32, 0x3F000000#32),
          (0x427FCCCD#32, 0xBE99999A#32, 0x3F7BBBBC#32, 0x3F000000#32),
          (0x4280199A#32, 0x3E999998#32, 0x3C88888A#32, 0x3F000000#32),
          (0x42804CCD#32, 0x3F666666#32, 0x3D4CCCCF#32, 0x3F000000#32),
          (0#32, 0#32, 0#32, 0#32)] := by decide +kernel

/-- Log entry 20: the last offset of 99 positions over the largest spread overflows; its phase is in [0, 1]. -/
theorem test_keyOn_phase_overflow :
    let p := { defaultParams with unisonCount := 99#32, phaseSpread := 0x7F7FFFFF#32 }
    isInf (phaseOffset p 98 99) = true ∧ isInf (phaseOffset p 0 99) = false ∧
    inRange32 zero32 one32 (wrappedPhase p 98 99) = true := by
  have h : isInf (phaseOffset { defaultParams with
      unisonCount := 99#32, phaseSpread := 0x7F7FFFFF#32 } 98 99) = true := by decide +kernel
  refine ⟨h, by decide +kernel, ?_⟩
  unfold wrappedPhase
  rw [if_pos h]
  exact unitFree_inRange _

/-- K-1's second KEY_ON: one voice left for three positions. -/
theorem test_keyOn_pool_drop :
    after (exec (.keyOn 0#8 64#8 127#8) (withPool
        [voiceIn .delay 0#32 0#32, voiceIn .idle 0#32 0#32] { defaultParams with unisonCount := 3#32 }
        (resetN 2)))
      (fun t => (memRead t 0xFF000000#32, memRead t 0x00000183#32, memRead t 0x0000000D#32)) =
    some (0x10#32, 64#32, 2#32) := by decide +kernel

/-- E-5's KEY_OFF: the volume is kept, in RELEASE, with the stage time at zero. -/
theorem test_keyOff_keeps_volume :
    after (exec (.keyOff 0#8 0#8) (withPool
        [voiceIn .attack 0x3D4CCCCD#32 0x3E99999A#32, voiceIn .idle 0#32 0#32] paramsE1 (resetN 2)))
      (fun t => t.oscs.flatMap fun o => o.voices.map env) =
    some [(.release, 0#32, 0x3E99999A#32), (.idle, 0#32, 0#32)] := by decide +kernel

/-- KO-5: with KEYOFF_RELEASES_IDLE an idle voice with the key enters RELEASE. -/
theorem test_keyOff_releases_idle :
    after (exec (.keyOff 0#8 0#8)
        (State.resetWith { withVoices 1 with keyOffReleasesIdle := true }))
      (fun t => (memRead t 0x0000000D#32, memRead t 0x00000080#32)) = some (1#32, 6#32) := by
  decide +kernel

/-- X-1: the step after withFetchWord drains the NOP. -/
theorem test_nop_step :
    after (step (State.reset.withFetchWord 64 0)) (fun t => (t.fifo, memRead t 0xFF000000#32)) =
      some ([], 0#32) := by decide +kernel

/-- MX-5: KEY_ON placed where the step after reset takes it. -/
theorem test_keyOn_step :
    after (step (State.reset.withFetchWord 64 0x7F4501))
      (fun t => (memRead t 0x00000080#32, memRead t 0x00000084#32, memRead t 0xFF000005#32, t.obs)) =
    some (1#32, 0x428A0000#32, 0#32, [.frames []]) := by decide +kernel

/-! ### Ports -/

/-- MX-6: a full FIFO with no sink. -/
theorem test_push_overflow :
    after (step (asked (.push 7#64) { State.resetWith { withVoices 1 with
        fifoDepth := 2, sinkPresent := false } with fifo := [1#64, 2#64] }))
      (fun t => (t.fifo, memRead t 0xFF000000#32)) = some ([1#64, 2#64], 0x21#32) := by decide +kernel

/-- H-4: write-1-to-clear. -/
theorem test_write_status :
    after (step (asked (.write 0xFF000000#32 0x3#32) { resetN 1 with sticky := 0x0B#5 }))
      (fun t => memRead t 0xFF000000#32) = some 0x08#32 := by decide +kernel

/-- H-1, H-2, H-3. -/
theorem test_reads :
    memRead State.reset 0x00000004#32 = 0x3F800000#32 ∧ memRead State.reset 0xFF000007#32 = 0x01000001#32 ∧
    memRead State.reset 0x00000588#32 = 0x92D68CA7#32 ∧ memRead State.reset 0x01000004#32 = 0#32 ∧
    memRead State.reset 0xFF000009#32 = 0#32 ∧ memRead State.reset 0x00004080#32 = 0#32 ∧
    memRead State.reset 0x00000504#32 = 0x3F800000#32 := by decide +kernel

/-- RS-2: a second RESET clears STATUS and the FIFO and reseeds. -/
theorem test_reset_again :
    after (step (asked .reset { withPool [voiceIn .sustain 0#32 one32] paramsE1 (resetN 1) with
        sticky := 0x1F#5, fifo := [1#64], frameCount := 9#64 }))
      (fun t => (t.oscs, t.sticky, t.fifo, t.frameCount)) =
    some ([⟨defaultParams, [resetVoice 0x92D68CA2#32]⟩], 0#5, [], 0#64) := by decide +kernel

/-! ### Blocks -/

/-- P-1's frames 0 and 1: a sine at 440 Hz. -/
theorem test_block_sine :
    after (step { resetN 1 with fifo := [0x00000000007F4501#64], pending := [.block 2#32] })
      (fun t => (t.obs, t.blockTime, t.frameCount)) =
    some ([.frames [⟨0x00000000#32, 0x00000000#32⟩, ⟨0x3D3572ED#32, 0x3D3572ED#32⟩]],
      0x383E37C6#32, 2#64) := by decide +kernel

/-- RS-3: a BLOCK right after RESET. -/
theorem test_block_silent :
    after (step { resetN 2 with pending := [.block 4#32] }) (fun t => t.obs) =
      some [.frames (List.replicate 4 ⟨0#32, 0#32⟩)] := by decide +kernel

/-- MX-2: the external source's (0.5, -0.25) on frame 1. -/
theorem test_block_ext :
    after (step { State.resetWith { withVoices 1 with next := 1, registry := [.osc 0, .ext 0] } with
        fifo := [0x00000000007F4501#64], pending := [.block 2#32]
        extIn := [[⟨0#32, 0#32⟩, ⟨0x3F000000#32, 0xBE800000#32⟩]] })
      (fun t => t.obs) =
    some [.frames [⟨0x00000000#32, 0x00000000#32⟩, ⟨0x3F0B572F#32, 0xBE52A345#32⟩]] := by
  decide +kernel

/-- P-3's step 6: noise from voice 0's seed. -/
theorem test_block_noise :
    after (step { resetN 2 with
        fifo := [0x0000000400000603#64, 0x00000000007F3C01#64], pending := [.block 2#32] })
      (fun t => (t.obs, memRead t 0x00000088#32, memRead t 0x00000188#32)) =
    some ([.frames [⟨0x3E73EFBA#32, 0x3E73EFBA#32⟩, ⟨0xBF1786C1#32, 0xBF1786C1#32⟩]],
      0x94DACB7A#32, 0x92D68CA3#32) := by decide +kernel

/-- HZ-10: BLOCK_TIME stops at 512.0, FRAME_COUNT does not. -/
theorem test_block_time_stops :
    after (step { resetN 1 with blockTime := 0x44000000#32, pending := [.block 1#32] })
      (fun t => (t.blockTime, t.frameCount)) = some (0x44000000#32, 1#64) := by decide +kernel

/-- H-8 and R250: requests without a step. -/
theorem test_block_refused :
    refusal (step (asked (.block 4097#32) (resetN 1))) = some .blockTooLong ∧
    refusal (step (asked (.block 0#32) (State.resetWith { withVoices 1 with sinkPresent := false }))) =
      some .sinkAbsent := by decide +kernel

/-! ### Envelope -/

/-- E-1, E-2 and E-3's last tick. -/
theorem test_tick_attack_decay :
    env (tick paramsE1 0x3D4CCCCD#32 (voiceIn .delay 0#32 0#32)) =
      (.attack, 0x3D4CCCCD#32, 0x3F000000#32) ∧
    env (tick paramsE1 0x3D4CCCCD#32 (voiceIn .attack 0x3D4CCCCD#32 0x3F000000#32)) =
      (.decay, 0#32, 0x3F800000#32) ∧
    env (tick paramsE1 0x3D4CCCCD#32 (voiceIn .decay 0x3E19999A#32 0x3F500000#32)) =
      (.decay, 0x3E4CCCCD#32, 0x3F400000#32) := by decide +kernel

/-- E-4's second tick, E-9, E-11 and E-14. -/
theorem test_tick_falls_through :
    env (tick { defaultParams with delay := 0x3DCCCCCD#32, hold := 0x3E4CCCCD#32, sustain := 0x3F000000#32 }
      0x3D4CCCCD#32 (voiceIn .delay 0x3D4CCCCD#32 0#32)) = (.hold, 0#32, one32) ∧
    env (tick { defaultParams with sustain := 0#32 } 0x3D4CCCCD#32 (voiceIn .delay 0#32 0#32)) =
      (.idle, 0#32, 0#32) ∧
    env (tick defaultParams 0x3D4CCCCD#32 (voiceIn .release 0#32 0x3F000000#32)) = (.idle, 0#32, 0#32) ∧
    env (tick { defaultParams with decay := 0x3E4CCCCD#32, sustain := 0x3F000000#32 } 0x3E800000#32
      (voiceIn .decay 0x3E99999A#32 one32)) = (.sustain, 0x3EB33334#32, 0x3F000000#32) := by
  decide +kernel

/-- E-5's ticks 1, 3 and 4, and E-12's threshold. -/
theorem test_tick_release :
    env (tick paramsE1 0x3DCCCCCD#32 (voiceIn .release 0#32 0x3E99999A#32)) =
      (.release, 0x3DCCCCCD#32, 0x3E4CCCCE#32) ∧
    (tick paramsE1 0x3DCCCCCD#32 (voiceIn .release 0#32 0x3DCCCCCF#32)).volume = 0x32800000#32 ∧
    env (tick paramsE1 0x3DCCCCCD#32 (voiceIn .release 0x3F000000#32 0x32800000#32)) =
      (.idle, 0#32, 0#32) ∧
    (tick { defaultParams with release := 0x3AAC4401#32 } 0x37BE37C6#32
      (voiceIn .release 0#32 one32)).volume = 0x3F7FFFFF#32 := by decide +kernel

/-! ### Oscillator -/

/-- F-1, F-2, F-9. -/
theorem test_frequency :
    frequency .correctlyRounded 0x428A0000#32 = 0x43DC0000#32 ∧
    frequency .correctlyRounded 0x42700000#32 = 0x4382D012#32 ∧
    frequency .correctlyRounded 0x43BF8000#32 = 0x50F6F109#32 := by decide +kernel

/-- B-2, B-3, B-5, B-10, B-12. -/
theorem test_blep :
    blep .two 0x3E000000#32 0x3E800000#32 = 0xBE800000#32 ∧
    blep .one 0x3E000000#32 0x3E800000#32 = 0xBF400000#32 ∧
    blep .two 0x3E800000#32 0x3E800000#32 = 0#32 ∧ blep .two 0x3F400000#32 0x3E800000#32 = 0#32 ∧
    blep .two 0x3F7EB852#32 0x3C23D70A#32 = 0x3E800010#32 ∧
    blep .one 0x3F000000#32 0x3FC00000#32 = 0xBF471C72#32 := by decide +kernel

/-- W-1, W-2, W-3, W-4. -/
theorem test_waveforms :
    squareSample .two 0x3F000000#32 0x3E000000#32 0x3E800000#32 = 0x3F400000#32 ∧
    squareSample .two 0x3F000000#32 0x3F200000#32 0x3E800000#32 = 0xBF400000#32 ∧
    squareSample .two 0x3F800000#32 0x3DCCCCCD#32 0x3E800000#32 = 0x3F7FFFFE#32 ∧
    triangleSample 0x3F7FBE77#32 = 0xBF7EF9DC#32 ∧
    sawtoothSample .two 0x3F7FBE77#32 0x3E800000#32 = 0x3BC41500#32 ∧
    sineSample .correctlyRounded 0x3E000000#32 = 0x3F3504F3#32 ∧
    sineSample .correctlyRounded 0x3F000000#32 = 0xB3BBBD2E#32 ∧
    sineSample .correctlyRounded 0x42C88000#32 = 0x3F800000#32 := by decide +kernel

/-- NZ-1, NZ-3, NZ-7. -/
theorem test_noise :
    noiseStep 1#32 = 0x00042021#32 ∧ noiseSample 0x00042021#32 = 0x39040420#32 ∧
    noiseStep 0x2B1F4D63#32 = 0x94DACB7A#32 ∧ noiseSample 0x94DACB7A#32 = 0xBF564A69#32 ∧
    noiseSample 0x7FFFFFFF#32 = one32 ∧ noiseSample 0x80000000#32 = 0xBF800000#32 := by decide +kernel

/-- G-1 and G-2. -/
theorem test_gain_pan :
    (panLeft 0xBF000000#32, panRight 0xBF000000#32) = (63, 191) ∧
    (panLeft 0x3F666666#32, panGain defaultConfig (panRight 0x3F666666#32)) = (241, 0x3F7F2C53#32) ∧
    voiceGain 0x3F000000#32 { voiceIn .sustain 0#32 0x3F000000#32 with velocity := 0x3F3504F3#32 } =
      0x3D7FFFFF#32 := by decide +kernel

/-- HZ-2 to HZ-6, MX-3, and R8's special cases. -/
theorem test_arithmetic :
    add32 0x3F000000#32 0x37BE37C6#32 = 0x3F00017C#32 ∧ add32 0x43FFFFFF#32 0x37BE37C6#32 = 0x44000000#32 ∧
    add32 0x7FC00001#32 0#32 = 0x7FC00000#32 ∧ floor32 0x80000000#32 = 0x80000000#32 ∧
    eq32 0#32 0x80000000#32 = true ∧ i2f32 2147483647 = 0x4F000000#32 ∧
    sqrt32 0x41100000#32 = 0x40400000#32 ∧ frac32 0xBE800000#32 = 0x3F400000#32 := by decide +kernel

/-! ### Witnesses: for each obligation with hypotheses, inputs that meet all of them together -/

/-- Two instances, the second not registered, and one external source. -/
def busyConfig : Config := { defaultConfig with
  instances := [defaultInstance 2, defaultInstance 1], next := 1, registry := [.osc 0, .ext 0] }

/-- A voice in SUSTAIN on key 60. -/
def sounding : Voice := { voiceIn .sustain 0x3F000000#32 one32 with key := 60#8, velocity := one32 }

/-- One voice sounding and one idle; the other instance idle. -/
def busy : State := { State.resetWith busyConfig with
  oscs := [⟨defaultParams, [sounding, resetVoice 2#32]⟩, resetOsc (defaultInstance 1)] }

/-- What KEY_OFF 0, 60 leaves of it. -/
def released : State :=
  modifyOsc 0 (fun o => { o with voices := o.voices.map (releaseVoice false 60#8) }) busy

/-- What KEY_ON 0, 72, 127 leaves of it. -/
def started : State := keyOnInstance 0 72#8 127#8 busy

/-- What a WRITE_REG of SUSTAIN leaves of it. -/
def rewritten : State := writeInstance 0 4#8 0x3F000000#32 busy

theorem witness_EncodeDecodeRoundTrip :
    decodeWord 0x3F00000000000403#64 = .ok (.writeReg 0#8 4#8 0x3F000000#32) := by decide

/-- For KEY_ON and KEY_OFF: the highest instance number in range, and an instance that exists. -/
theorem witness_KeyOnPlacesVoicesByRank :
    (1#8).toNat < busy.cfg.nosc ∧ busy.oscs[(1#8).toNat]? = some (resetOsc (defaultInstance 1)) := by
  decide +kernel

theorem witness_KeyOffReleasesMatchingVoices :
    (0#8).toNat < busy.cfg.nosc ∧
      busy.oscs[(0#8).toNat]? = some ⟨defaultParams, [sounding, resetVoice 2#32]⟩ := by
  decide +kernel

/-- Every clause with a legal value: the pattern 1 is legal for all twelve registers. -/
theorem witness_WriteRegThenReadGivesValue :
    (1#8).toNat < busy.cfg.nosc ∧ busy.cfg.nosc ≤ 255 ∧
    busy.oscs[(1#8).toNat]? = some (resetOsc (defaultInstance 1)) ∧
    ∀ r ∈ [ParamReg.delay, .attack, .hold, .decay, .sustain, .release, .waveform, .pulseWidth,
      .unisonCount, .detuneDepth, .phaseSpread, .stereoWidth], legalValue r 1#32 = true := by
  decide +kernel

/-- Both clauses where they meet: 0x0C is the first number with no register, 0x0B the last with one. -/
theorem witness_WriteRegRefusalsSetOneBit :
    (0#8).toNat < busy.cfg.nosc ∧ busy.cfg.nosc ≤ 255 ∧ 0x0C ≤ (0x0C#8).toNat ∧
    paramReg? 0x0C#8 = none ∧ paramReg? 0x0B#8 = some .stereoWidth ∧
    legalValue .stereoWidth 0x3F800001#32 = false := by decide +kernel

theorem witness_LegalValuesAreRealRanges :
    (ParamReg.release = ParamReg.delay ∨ ParamReg.release = .attack ∨ ParamReg.release = .hold ∨
      ParamReg.release = .decay ∨ ParamReg.release = .release) ∧
    (ParamReg.pulseWidth = ParamReg.sustain ∨ ParamReg.pulseWidth = .pulseWidth) := by decide

/-- A word of no row, and a word whose INST is one too high. -/
theorem witness_MalformedWordSetsOnlyBadCmd :
    (∀ i, decodeWord 0x0000000000000004#64 = .ok i → i.wellFormed busy.cfg.nosc = false) ∧
    (∀ i, decodeWord 0x0000000002643C01#64 = .ok i → i.wellFormed busy.cfg.nosc = false) := by
  constructor
  · intro i h
    rw [show decodeWord 0x0000000000000004#64 = .error (.reservedOpcode 4#8) by decide] at h
    cases h
  · intro i h
    rw [show decodeWord 0x0000000002643C01#64 = .ok (.keyOn 2#8 0x3C#8 0x64#8) by decide] at h
    cases h
    decide +kernel

/-- One instruction of each kind that gives a next state. -/
theorem witness_CommandFrame :
    exec .nop busy = .next busy ∧ exec (.keyOn 0#8 72#8 127#8) busy = .next started ∧
    exec (.keyOff 0#8 60#8) busy = .next released ∧
    exec (.writeReg 0#8 4#8 0x3F000000#32) busy = .next rewritten :=
  ⟨rfl, rfl, rfl, rfl⟩

theorem witness_OnlyKeyOffEntersRelease :
    (tick paramsE1 0x3DCCCCCD#32 (voiceIn .release 0#32 0x3E99999A#32)).stage = .release ∧
    exec (.keyOff 0#8 60#8) busy = .next released ∧ voiceAt busy 0 0 = some sounding ∧
    voiceAt released 0 0 = some { sounding with stage := .release, stageTime := 0#32 } ∧
    sounding.stage ≠ .release :=
  ⟨by decide +kernel, rfl, rfl, by decide +kernel, by decide⟩

theorem witness_OnlyKeyOnLeavesIdle :
    (resetVoice 2#32).stage = .idle ∧ exec (.keyOn 0#8 72#8 127#8) busy = .next started ∧
    busy.cfg.keyOffReleasesIdle = false ∧ voiceAt busy 0 1 = some (resetVoice 2#32) ∧
    (voiceAt started 0 1).map Voice.stage = some .delay :=
  ⟨rfl, rfl, rfl, rfl, by decide +kernel⟩

/-- The hypothesis on the configuration that the statements about steps share. -/
theorem witness_configWellFormed : configWellFormed busy.cfg = true := by decide +kernel

theorem witness_PushAppendsOrOverflows : configWellFormed busy.cfg = true ∧
    configWellFormed { busyConfig with fifoDepth := 1 } = true := by decide +kernel

/-- The lowest address a pushed word may not change, and the two it may. -/
theorem witness_PushedWordHasNoEffectYet :
    (∃ t, step { busy with pending := .push 0#64 :: [] } = .next t) ∧
    ¬ ((0xFF000002#32).extractLsb' 24 8 = 0xFF#8 ∧
      ((0xFF000002#32).extractLsb' 0 8 = 0x00#8 ∨ (0xFF000002#32).extractLsb' 0 8 = 0x01#8)) :=
  ⟨⟨pushStep 0#64 busy, by
    unfold step
    rw [if_pos (show configWellFormed busy.cfg = true by decide +kernel)]
    rfl⟩, by decide⟩

theorem witness_ReadReturnsAndChangesNothing : configWellFormed State.reset.cfg = true := by
  decide +kernel

theorem witness_GlobalRegistersRead :
    configWellFormed { busyConfig with sinkPresent := false } = true ∧
    configWellFormed { busyConfig with sinkPresent := true } = true := by decide +kernel

/-- The STATUS address with a VSEL, and the address next to it. -/
theorem witness_WriteClearsNamedStatusBits : configWellFormed busy.cfg = true ∧
    ((0xFF123400#32).extractLsb' 24 8 = 0xFF#8 ∧ (0xFF123400#32).extractLsb' 0 8 = 0x00#8) ∧
    ¬ ((0xFF000001#32).extractLsb' 24 8 = 0xFF#8 ∧ (0xFF000001#32).extractLsb' 0 8 = 0x00#8) := by
  decide +kernel

/-- 0x7F of an instance, and 0x80 of the global set. -/
theorem witness_VselIgnoredOutsideWindow :
    ((0xFF#8 : Byte) = 0xFF#8 ∨ (0x80#8 : Byte).toNat < 0x80) ∧
    ((0x00#8 : Byte) = 0xFF#8 ∨ (0x7F#8 : Byte).toNat < 0x80) := by decide

/-- Each clause at the ends of its range; NOSC is 2 and instance 1 has one voice. -/
theorem witness_UnmappedReadsGiveZero : PoolsSized busy ∧
    (busy.cfg.nosc ≤ (2#8).toNat ∧ (2#8 : Byte) ≠ 0xFF#8 ∧ busy.cfg.nosc ≤ (0xFE#8).toNat) ∧
    (0x09 ≤ (0x09#8).toNat) ∧
    ((0x0E ≤ (0x0E#8).toNat ∧ (0x0E#8).toNat < 0x80) ∧ (0x0E ≤ (0x7F#8).toNat ∧ (0x7F#8).toNat < 0x80) ∧
      0x89 ≤ (0x89#8).toNat) ∧
    (busy.cfg.instances[(1#8).toNat]? = some (defaultInstance 1) ∧
      (defaultInstance 1).nvoices ≤ (1#16).toNat ∧ 0x80 ≤ (0x80#8).toNat) := by
  unfold PoolsSized; decide +kernel

theorem witness_VoiceWindowReadsFields :
    configWellFormed busy.cfg = true ∧ PoolsSized busy ∧ (0#8).toNat < busy.cfg.nosc ∧
    busy.oscs[(0#8).toNat]? = some ⟨defaultParams, [sounding, resetVoice 2#32]⟩ ∧
    [sounding, resetVoice 2#32][(1#16).toNat]? = some (resetVoice 2#32) := by
  unfold PoolsSized; decide +kernel

/-- All clauses: a KEY_ON at the head of a queue, a KEY_OFF of the global set and a word with no row
there, and a KEY_ON placed by withFetchWord. -/
theorem witness_StepRunsDecodedCommand :
    (configWellFormed busy.cfg = true ∧ busy.cfg.sinkPresent = true ∧
      (4096#32).toNat ≤ busy.cfg.maxBlock ∧
      decodeWord 0x00000000007F4801#64 = .ok (.keyOn 0#8 72#8 127#8) ∧
      (Instr.keyOn 0#8 72#8 127#8).wellFormed busy.cfg.nosc = true ∧
      decodeWord 0x00000000FF004502#64 = .ok (.keyOff 0xFF#8 69#8) ∧
      (Instr.keyOff 0xFF#8 69#8).wellFormed busy.cfg.nosc = false ∧
      (∃ e, decodeWord 0x0000000000000004#64 = .error e) ∧
      decodeTableWord 64 0x00000000007F4801 = some (.keyOn 0#8 72#8 127#8)) ∧
    exec (.keyOn 0#8 72#8 127#8) { busy with fifo := [], pending := [] } = .next started :=
  ⟨⟨by decide +kernel, by decide +kernel, by decide +kernel, by decide +kernel, by decide +kernel,
    by decide +kernel, by decide +kernel, ⟨_, rfl⟩, by decide +kernel⟩, rfl⟩

/-- A BLOCK of 0 and of MAX_BLOCK frames; for the silent clause, a state with no external source whose
drain leaves every voice idle. -/
theorem witness_BlockCompletes :
    (configWellFormed busy.cfg = true ∧ busy.cfg.sinkPresent = true ∧
      (0#32).toNat ≤ busy.cfg.maxBlock ∧ (4096#32).toNat ≤ busy.cfg.maxBlock) ∧
    configWellFormed (resetN 2).cfg = true ∧ (resetN 2).cfg.sinkPresent = true ∧
    (∀ j, .ext j ∉ (resetN 2).cfg.registry) ∧
    drain (resetN 2).fifo { resetN 2 with pending := [] } = .next (resetN 2) ∧
    AllVoices (fun v => v.stage = .idle) (resetN 2) :=
  ⟨by decide +kernel, by decide +kernel, rfl, fun j h => by simp [resetN, withVoices, State.resetWith,
    defaultConfig] at h, rfl, by unfold AllVoices; decide +kernel⟩

theorem witness_BlockZeroOnlyDrains :
    configWellFormed busy.cfg = true ∧ busy.cfg.sinkPresent = true := by decide +kernel

/-- Both clauses; 4097 is the first frame count that has no step. -/
theorem witness_RefusedBlockRequests :
    (configWellFormed busy.cfg = true ∧ busy.cfg.sinkPresent = true ∧
      busy.cfg.maxBlock < (4097#32).toNat) ∧
    (configWellFormed { busyConfig with sinkPresent := false } = true) := by decide +kernel

theorem witness_IllFormedConfigHasNoStep :
    configWellFormed { busyConfig with sampleRate := 0 } = false ∧
    ¬ [Source.osc 0, .osc 0].Nodup ∧ busyConfig.nosc ≤ 2 ∧ busyConfig.next ≤ 1 := by decide +kernel

theorem witness_RenderKeepsRegistersAndNotes : Source.osc 1 ∉ busy.cfg.registry := by decide

/-- A frame that a stream supplies. -/
theorem witness_ExternalSamplesAreAdded :
    (clearAcc 2)[1]? = some ⟨0#32, 0#32⟩ ∧
    ({ busy with extIn := [[⟨1#32, 2#32⟩, ⟨3#32, 4#32⟩]] } : State).extIn[0]? =
      some [⟨1#32, 2#32⟩, ⟨3#32, 4#32⟩] ∧
    [(⟨1#32, 2#32⟩ : Frame), ⟨3#32, 4#32⟩][1]? = some ⟨3#32, 4#32⟩ := by decide +kernel

/-- Clause by clause: a voice idle before the tick, one idle after it, and one still sounding. -/
theorem witness_VoiceFrameStep : (resetVoice 2#32).stage = .idle ∧
    (tick defaultParams (dt32 defaultConfig) (voiceIn .release 0#32 one32)).stage = .idle ∧
    (tick defaultParams (dt32 defaultConfig) sounding).stage ≠ .idle := by decide +kernel

/-- One voice sounding, and no external source. -/
def alone : State := withPool [sounding, resetVoice 2#32] defaultParams (resetN 2)

/-- Both clauses: the voice, and the state it sounds in. -/
theorem witness_OscillatorSoundIsFinite :
    (configWellFormed alone.cfg = true ∧ alone.cfg.mathLib = .correctlyRounded ∧
      paramsLegal defaultParams = true ∧ legalVolume alone.globalVolume = true ∧
      EnvelopeInRange sounding ∧ SoundInRange sounding) ∧
    (RegistersLegal alone ∧ PoolsSized alone ∧ AllVoices EnvelopeInRange alone ∧
      AllVoices SoundInRange alone ∧ sounding ∈ alone.oscs.flatMap Osc.voices) ∧
    ∀ j, .ext j ∉ alone.cfg.registry := by
  refine ⟨?_, ?_, fun j h => by
    simp [alone, withPool, resetN, withVoices, State.resetWith, defaultConfig] at h⟩
  · unfold EnvelopeInRange SoundInRange
    decide +kernel
  · unfold RegistersLegal PoolsSized AllVoices EnvelopeInRange SoundInRange
    decide +kernel

theorem witness_ResetSetsEveryPiece : configWellFormed busy.cfg = true ∧
    busy.cfg.instances[0]? = some (defaultInstance 2) ∧
    (resetStep busy).oscs[0]? = some (resetOsc (defaultInstance 2)) ∧
    (resetOsc (defaultInstance 2)).voices[1]? = some (resetVoice 0x92D68CA3#32) := by decide +kernel

/-- The invariants' hypotheses hold together in a state with a sounding voice, which has a next state. -/
theorem witness_invariants : RegistersLegal busy ∧ PoolsSized busy ∧ FifoBounded busy ∧
    AllVoices IdleSilent busy ∧ AllVoices NoiseAlive busy ∧ AllVoices EnvelopeInRange busy ∧
    AllVoices PhaseInRange busy ∧ AllVoices SoundInRange busy := by
  unfold RegistersLegal PoolsSized FifoBounded AllVoices IdleSilent NoiseAlive EnvelopeInRange
    PhaseInRange SoundInRange
  decide +kernel

theorem witness_invariants_step : ∃ t, step { busy with pending := [.reset] } = .next t :=
  ⟨resetStep busy, by
    unfold step
    rw [if_pos (show configWellFormed busy.cfg = true by decide +kernel)]
    rfl⟩

theorem witness_ResetMeetsInvariants : configWellFormed busyConfig = true := by decide +kernel

/-- The second clause, with a length of -0.0. -/
theorem witness_TickFollowsStages :
    isZero 0x80000000#32 = true ∧ isZero defaultParams.attack = true ∧
    isZero defaultParams.hold = true ∧ isZero defaultParams.decay = true ∧
    gt32 defaultParams.sustain 0#32 = true ∧
    (voiceIn .delay 0#32 0#32).stage = .delay ∧ (voiceIn .delay 0#32 0#32).stageTime = 0#32 ∧
    isFinite 0x37BE37C6#32 = true ∧ gt32 0x37BE37C6#32 0#32 = true := by decide +kernel

theorem witness_SilentReleaseEndsAtOnce : paramsLegal paramsE1 = true ∧
    (voiceIn .release 0#32 0#32).stage = .release ∧ (voiceIn .release 0#32 0#32).volume = 0#32 ∧
    isFinite 0x37BE37C6#32 = true ∧ gt32 0x37BE37C6#32 0#32 = true := by decide +kernel

/-- The shortest delay above 512 s, at the stage time where it sticks. -/
theorem witness_DelayBeyond512NeverEnds :
    gt32 0x44000001#32 0x44000000#32 = true ∧ (voiceIn .delay 0x44000000#32 0#32).stage = .delay ∧
    ge32 0x44000000#32 0#32 = true ∧ le32 0x44000000#32 0x44000000#32 = true := by decide +kernel

theorem witness_PhaseStopsAt512 :
    isFinite 0x44000000#32 = true ∧ ge32 0x44000000#32 0x44000000#32 = true ∧
    isFinite 0x7F7FFFFF#32 = true ∧ ge32 0x7F7FFFFF#32 0x44000000#32 = true := by decide +kernel

/-- The smallest rate above zero and the largest that stalls. -/
theorem witness_SlowReleaseStalls :
    gt32 0x00000001#32 0#32 = true ∧ le32 0x00000001#32 0x3AAC4400#32 = true ∧
    gt32 0x3AAC4400#32 0#32 = true ∧ le32 0x3AAC4400#32 0x3AAC4400#32 = true ∧
    (voiceIn .release 0#32 one32).stage = .release ∧
    (voiceIn .release 0#32 one32).volume = 0x3F800000#32 := by decide +kernel

/-- Both clauses: t just below d, and t equal to d. -/
theorem witness_PolyBlepSegments :
    ge32 0x3E7FFFFF#32 0#32 = true ∧ lt32 0x3E7FFFFF#32 one32 = true ∧
    isFinite 0x3E800000#32 = true ∧ gt32 0x3E800000#32 0#32 = true ∧
    lt32 0x3E7FFFFF#32 0x3E800000#32 = true ∧ lt32 0x3E800000#32 0x3E800000#32 = false ∧
    ge32 0x3E800000#32 0#32 = true ∧ lt32 0x3E800000#32 one32 = true := by decide +kernel

theorem witness_ZeroPulseWidthIsConstant :
    ge32 0x3C8996C7#32 0#32 = true ∧ lt32 0x3C8996C7#32 one32 = true ∧
    isFinite 0x3E800000#32 = true ∧ gt32 0x3E800000#32 0#32 = true := by decide +kernel

/-- With `witness_invariants` and `witness_invariants_step`: a KEY_ON that gives a next state. -/
theorem witness_LegalSoundStaysInRange : exec (.keyOn 0#8 72#8 127#8) busy = .next started := rfl

/-- Clause by clause: finite operands, a divisor that is not zero, a radicand at zero, a NaN. -/
theorem witness_ArithmeticRoundsOnce :
    isFinite 0x7F7FFFFF#32 = true ∧ isFinite 0x00000001#32 = true ∧ val 0x00000001#32 ≠ 0 ∧
    (isFinite 0x80000000#32 = true ∧ 0 ≤ val 0x80000000#32) ∧ isNaN 0xFFFFFFFF#32 = true := by
  decide +kernel

theorem witness_ComparisonsAreOfValues :
    isFinite 0x80000000#32 = true ∧ isFinite 0x7F7FFFFF#32 = true ∧ isNaN 0x7F800001#32 = true := by
  decide +kernel

/-- Both signs: -0.0 on the border, and the smallest negative value. -/
theorem witness_FloorAndFracAreExact :
    (isFinite 0x80000000#32 = true ∧ 0 ≤ val 0x80000000#32) ∧
    (isFinite 0x80000001#32 = true ∧ val 0x80000001#32 < 0) := by decide +kernel

theorem witness_DefaultExp2RoundsCorrectly :
    isFinite 0xBF400000#32 = true ∧ exp2Rounded 0xBF400000#32 = some 0x3F1837F0#32 := by decide +kernel

theorem witness_DefaultSineRoundsCorrectly :
    isFinite 0x3F490FDB#32 = true ∧ isZero 0x3F490FDB#32 = false ∧
    sinRounded 0x3F490FDB#32 = some 0x3F3504F3#32 := by decide +kernel

end Sys2Proof.Tests
end

section
/-!
The configuration and the step (R4, R5), and what rendering leaves unchanged (R160, R230, R242).
-/
namespace Sys2Proof.Machine

/-! ### Configurations and the step (R4, R5) -/

/-- The model's check for repeated sources is the library's `Nodup`. -/
theorem noRepeats_eq_true_iff (l : List Source) : noRepeats l = true ↔ l.Nodup := by
  induction l with
  | nil => simp [noRepeats]
  | cons x xs ih => simp [noRepeats, ih]

theorem registryWellFormed_eq_true_iff (c : Config) : registryWellFormed c = true ↔
    c.registry.Nodup ∧ ∀ x ∈ c.registry, sourceExists c x = true := by
  simp [registryWellFormed, noRepeats_eq_true_iff]

/-- REGISTRY alone can make a configuration ill-formed (R5). -/
theorem configWellFormed_eq_false_of_registry {c : Config}
    (h : ¬(c.registry.Nodup ∧ ∀ x ∈ c.registry, sourceExists c x = true)) :
    configWellFormed c = false := by
  rw [← registryWellFormed_eq_true_iff, Bool.not_eq_true] at h
  simp [configWellFormed, h]

@[simp] theorem keyOnInstance_cfg (k : Nat) (key vel : Byte) (s : State) :
    (keyOnInstance k key vel s).cfg = s.cfg := by
  unfold keyOnInstance
  split
  · rfl
  · dsimp only; split <;> rfl

theorem exec_cfg {i : Instr} {s t : State} (h : exec i s = .next t) : t.cfg = s.cfg := by
  rcases exec_cases h with rfl | ⟨_, rfl⟩ | ⟨_, -, rfl⟩ | ⟨_, _, _, -, rfl⟩ | ⟨_, _, rfl⟩ |
    ⟨_, _, _, rfl⟩ <;> simp

theorem execWord_cfg {w : CmdWord} {s t : State} (h : execWord w s = .next t) : t.cfg = s.cfg := by
  obtain ⟨i, -, hi⟩ | rfl := execWord_cases h
  · exact exec_cfg hi
  · simp

theorem drain_cfg {ws : List CmdWord} {s t : State} (h : drain ws s = .next t) : t.cfg = s.cfg :=
  drain_keeps (fun u => u.cfg = s.cfg)
    (fun _ _ _ _ hu hw => (execWord_cfg hw).trans (by simpa using hu)) ws s t rfl h

@[simp] theorem pushStep_cfg (w : CmdWord) (s : State) : (pushStep w s).cfg = s.cfg := by
  unfold pushStep; split <;> simp

@[simp] theorem writeStep_cfg (a d : Word) (s : State) : (writeStep a d s).cfg = s.cfg := by
  unfold writeStep memWrite; split <;> simp

/-! ### What rendering keeps (R160, R230, R242) -/

/-- The fields of a voice that only KEY_ON sets (R134): key, note, velocity and pan. -/
def noteOf (v : Voice) : Byte × Word × Word × Word := (v.key, v.actualNote, v.velocity, v.panning)

theorem noteOf_tick (p : Params) (dt : Word) (v : Voice) : noteOf (tick p dt v) = noteOf v := by
  rw [tick_frame]; rfl

theorem noteOf_voiceFrame (c : Config) (p : Params) (vol : Word) (v : Voice) (cell : Frame) :
    noteOf (voiceFrame c p vol v cell).1 = noteOf v := by
  unfold voiceFrame
  dsimp only
  split <;> exact noteOf_tick p (dt32 c) v

theorem oscFrame_map_noteOf (c : Config) (p : Params) (vol : Word) (vs : List Voice) (cell : Frame) :
    (oscFrame c p vol vs cell).1.map noteOf = vs.map noteOf := by
  induction vs generalizing cell with
  | nil => rfl
  | cons v vs ih => simp [oscFrame, ih, noteOf_voiceFrame]

theorem oscBlock_map_noteOf (c : Config) (p : Params) (vol : Word) (vs : List Voice)
    (cells : List Frame) : (oscBlock c p vol vs cells).1.map noteOf = vs.map noteOf := by
  induction cells generalizing vs with
  | nil => rfl
  | cons cell cells ih => simp [oscBlock, ih, oscFrame_map_noteOf]

/-- t has all of s that rendering may not touch: the configuration, STATUS, the FIFO, the pending
operations, every register, and every voice's note. -/
structure SameRegistersAndNotes (s t : State) : Prop where
  cfg : t.cfg = s.cfg
  sticky : t.sticky = s.sticky
  fifo : t.fifo = s.fifo
  globalVolume : t.globalVolume = s.globalVolume
  pending : t.pending = s.pending
  params : t.oscs.map Osc.params = s.oscs.map Osc.params
  notes : t.oscs.map (fun o => o.voices.map noteOf) = s.oscs.map (fun o => o.voices.map noteOf)

theorem SameRegistersAndNotes.refl (s : State) : SameRegistersAndNotes s s :=
  ⟨rfl, rfl, rfl, rfl, rfl, rfl, rfl⟩

theorem SameRegistersAndNotes.renderSource {s : State} (n : Nat) (r : State × List Frame)
    (src : Source) (h : SameRegistersAndNotes s r.1) :
    SameRegistersAndNotes s (renderSource n r src).1 := by
  obtain heq | ⟨k, o, -, ho, heq⟩ | ⟨j, -, heq⟩ := renderSource_state n r src
  · rwa [heq]
  · obtain ⟨hcfg, hsticky, hfifo, hvolume, hpending, hparams, hnotes⟩ := h
    rw [heq]
    refine ⟨hcfg, hsticky, hfifo, hvolume, hpending, ?_, ?_⟩
    · refine (modifyOsc_map Osc.params _ _ _ fun _ _ => ?_).trans hparams
      rfl
    · refine (modifyOsc_map _ _ _ _ fun u hu => ?_).trans hnotes
      obtain rfl : o = u := Option.some.inj (ho.symm.trans hu)
      exact oscBlock_map_noteOf ..
  · rw [heq]
    exact ⟨h.cfg, h.sticky, h.fifo, h.globalVolume, h.pending, h.params, h.notes⟩

theorem renderSources_sameRegistersAndNotes (n : Nat) (s : State) :
    SameRegistersAndNotes s (renderSources n s).1 :=
  renderSources_keeps (SameRegistersAndNotes s) n
    (fun r src => SameRegistersAndNotes.renderSource n r src) s (.refl s)

theorem renderBlock_cfg (n : Word) (s : State) : (renderBlock n s).cfg = s.cfg :=
  (renderSources_sameRegistersAndNotes n.toNat s).cfg

/-- A source leaves every other oscillator as it was. -/
theorem renderSource_oscs_of_ne {n k : Nat} {src : Source} (r : State × List Frame)
    (h : src ≠ .osc k) : (renderSource n r src).1.oscs[k]? = r.1.oscs[k]? := by
  obtain heq | ⟨m, o, rfl, -, heq⟩ | ⟨j, rfl, heq⟩ := renderSource_state n r src
  · rw [heq]
  · have hmk : m ≠ k := fun hmk => h (by rw [hmk])
    simp [heq, hmk]
  · rw [heq]; rfl

/-- Rendering leaves an oscillator that REGISTRY does not name as it was (R5, R242). -/
theorem renderSources_oscs_of_notMem {n k : Nat} {s : State} (h : .osc k ∉ s.cfg.registry) :
    (renderSources n s).1.oscs[k]? = s.oscs[k]? := by
  unfold renderSources
  generalize s.cfg.registry = srcs at h
  suffices H : ∀ r : State × List Frame,
      (srcs.foldl (renderSource n) r).1.oscs[k]? = r.1.oscs[k]? from H _
  induction srcs with
  | nil => intro r; rfl
  | cons src srcs ih =>
    intro r
    rw [List.mem_cons, not_or] at h
    obtain ⟨hne, hrest⟩ := h
    rw [List.foldl_cons, ih hrest, renderSource_oscs_of_ne r (Ne.symm hne)]

end Sys2Proof.Machine

namespace Sys2Proof.Proofs
open Machine

/-- Settles O30: `configWellFormed` holds REGISTRY's two conditions. -/
theorem illFormedConfigHasNoStep : Obligations.IllFormedConfigHasNoStep := by
  refine ⟨fun s h => by simp [step, h], fun c hrep => ?_, fun c k hmem hk => ?_,
    fun c j hmem hj => ?_⟩
  · exact configWellFormed_eq_false_of_registry fun ⟨hnodup, _⟩ => hrep hnodup
  · refine configWellFormed_eq_false_of_registry fun ⟨_, hexists⟩ => ?_
    have hlt : k < c.nosc := of_decide_eq_true (hexists _ hmem)
    omega
  · refine configWellFormed_eq_false_of_registry fun ⟨_, hexists⟩ => ?_
    have hlt : j < c.next := of_decide_eq_true (hexists _ hmem)
    omega

/-- Settles O38, by the cases of a step: each operation keeps the configuration. -/
theorem configurationNeverChanges : Obligations.ConfigurationNeverChanges := by
  intro s t h
  obtain ⟨-, ⟨-, rfl⟩ | ⟨op, ops, -, ⟨w, -, rfl⟩ | ⟨a, -, rfl⟩ | ⟨a, d, -, rfl⟩ | ⟨-, rfl⟩ |
    ⟨n, u, -, -, -, hdrain, rfl⟩⟩⟩ := step_cases h
  · rfl
  · rw [pushStep_cfg]
  · rw [readStep, respond_cfg]
  · rw [writeStep_cfg]
  · rw [resetStep_cfg]
  · rw [renderBlock_cfg, drain_cfg hdrain]

/-- Settles O31: every source keeps the registers and notes, and instances it is not. -/
theorem renderKeepsRegistersAndNotes : Obligations.RenderKeepsRegistersAndNotes := by
  intro n s
  obtain ⟨hcfg, hsticky, hfifo, hvolume, hpending, hparams, hnotes⟩ :=
    renderSources_sameRegistersAndNotes n.toNat s
  exact ⟨hcfg, hsticky, hfifo, hvolume, hpending, hparams, hnotes,
    fun k hk => renderSources_oscs_of_notMem hk⟩

end Sys2Proof.Proofs
end

section
/-!
The bits of a binary32 pattern, its exact value, and the comparisons (R7, R8).
-/
namespace Sys2Proof.Machine

/-! ### Sign and magnitude of a pattern -/

theorem magBits_lt (a : Word) : magBits a < 2 ^ 31 := Nat.mod_lt _ (by norm_num)

theorem signBit_eq_decide (a : Word) : signBit a = decide (2 ^ 31 ≤ a.toNat) := by
  simp [signBit, BitVec.msb_eq_decide]

theorem toNat_packSign {p : Nat} (hp : p < 2 ^ 31) (neg : Bool) :
    (packSign neg p).toNat = if neg then p + 2 ^ 31 else p := by
  cases neg <;> simp [packSign] <;> omega

theorem magBits_packSign {p : Nat} (hp : p < 2 ^ 31) (neg : Bool) :
    magBits (packSign neg p) = p := by
  rw [magBits, toNat_packSign hp]; split <;> omega

theorem signBit_packSign {p : Nat} (hp : p < 2 ^ 31) (neg : Bool) :
    signBit (packSign neg p) = neg := by
  rw [signBit_eq_decide, toNat_packSign hp]
  cases neg
  · simpa using hp
  · simp

theorem toNat_packSign_mod_two {p : Nat} (hp : p < 2 ^ 31) (neg : Bool) :
    (packSign neg p).toNat % 2 = p % 2 := by
  rw [toNat_packSign hp]; split <;> omega

/-- A pattern is its sign and its magnitude. -/
theorem packSign_signBit_magBits (a : Word) : packSign (signBit a) (magBits a) = a := by
  apply BitVec.eq_of_toNat_eq
  rw [toNat_packSign (magBits_lt a), signBit_eq_decide, magBits]
  have := a.isLt
  simp only [decide_eq_true_eq]
  split <;> omega

theorem packSign_injective {n m : Bool} {p q : Nat} (hp : p < 2 ^ 31) (hq : q < 2 ^ 31)
    (h : packSign n p = packSign m q) : n = m ∧ p = q :=
  ⟨by rw [← signBit_packSign hp n, h, signBit_packSign hq],
    by rw [← magBits_packSign hp n, h, magBits_packSign hq]⟩

@[simp] theorem signBit_neg32 (a : Word) : signBit (neg32 a) = !signBit a := by
  have h : (0x80000000#32).msb = true := rfl
  simp [signBit, neg32, BitVec.msb_xor, h]

@[simp] theorem magBits_neg32 (a : Word) : magBits (neg32 a) = magBits a := by
  rw [magBits, neg32, BitVec.toNat_xor, Nat.xor_mod_two_pow]
  exact Nat.xor_zero _

@[simp] theorem isNaN_neg32 (a : Word) : isNaN (neg32 a) = isNaN a := by simp [isNaN]

@[simp] theorem isFinite_neg32 (a : Word) : isFinite (neg32 a) = isFinite a := by simp [isFinite]

theorem magBits_lt_infMag {a : Word} (h : isFinite a = true) : magBits a < infMag :=
  of_decide_eq_true h

theorem isNaN_of_isFinite {a : Word} (h : isFinite a = true) : isNaN a = false := by
  have := magBits_lt_infMag h
  simp [isNaN]; omega

theorem isInf_of_isFinite {a : Word} (h : isFinite a = true) : isInf a = false := by
  have := magBits_lt_infMag h
  simp [isInf]; omega

theorem infMag_lt : infMag < 2 ^ 31 := by decide

theorem isFinite_packSign {p : Nat} (hp : p < infMag) (neg : Bool) :
    isFinite (packSign neg p) = true := by
  simp [isFinite, magBits_packSign (hp.trans infMag_lt), hp]

/-! ### Exact values -/

@[simp] theorem unitsOf_zero : unitsOf 0 = 0 := rfl

theorem unitsOf_lt_iff {p q : Nat} : unitsOf p < unitsOf q ↔ p < q :=
  StrictMono.lt_iff_lt (f := unitsOf) fun _ _ h => unitsOf_strictMono h

theorem unitsOf_le_iff {p q : Nat} : unitsOf p ≤ unitsOf q ↔ p ≤ q :=
  StrictMono.le_iff_le (f := unitsOf) fun _ _ h => unitsOf_strictMono h

theorem unitsOf_pos {p : Nat} : 0 < unitsOf p ↔ 0 < p := unitsOf_lt_iff (p := 0)

theorem exactUnits_packSign {p : Nat} (hp : p < 2 ^ 31) (neg : Bool) :
    exactUnits (packSign neg p) = if neg then -(unitsOf p : Int) else (unitsOf p : Int) := by
  rw [exactUnits, signBit_packSign hp, magBits_packSign hp]

@[simp] theorem exactUnits_neg32 (a : Word) : exactUnits (neg32 a) = -exactUnits a := by
  cases h : signBit a <;> simp [exactUnits, h]

@[simp] theorem val_neg32 (a : Word) : val (neg32 a) = -val a := by
  simp [val, neg_div]

theorem exactUnits_eq_zero_iff {a : Word} : exactUnits a = 0 ↔ isZero a = true := by
  have := unitsOf_pos (p := magBits a)
  cases h : signBit a <;> simp [exactUnits, isZero, h] <;> omega

theorem val_eq_zero_iff {a : Word} : val a = 0 ↔ isZero a = true := by
  simp [val, exactUnits_eq_zero_iff]

theorem val_lt_val_iff {a b : Word} : val a < val b ↔ exactUnits a < exactUnits b := by
  rw [val, val, div_lt_div_iff_of_pos_right (by positivity), Int.cast_lt]

/-! ### The order of patterns is the order of values -/

/-- The value, in units, of the pattern whose order number is z. -/
def keyUnits (z : Int) : Int :=
  if z < 0 then -(unitsOf z.natAbs : Int) else (unitsOf z.natAbs : Int)

theorem exactUnits_eq_keyUnits (a : Word) : exactUnits a = keyUnits (orderKey a) := by
  rcases Nat.eq_zero_or_pos (magBits a) with h0 | hpos
  · simp [exactUnits, keyUnits, orderKey, h0]
  · cases h : signBit a
    · simp [exactUnits, keyUnits, orderKey, h]
    · simp [exactUnits, keyUnits, orderKey, h, hpos]

theorem keyUnits_strictMono : StrictMono keyUnits := by
  intro x y hxy
  unfold keyUnits
  by_cases hy : y < 0
  · have := unitsOf_strictMono (p := y.natAbs) (q := x.natAbs) (by omega)
    rw [if_pos (by omega), if_pos hy]
    omega
  · by_cases hx : x < 0
    · have := unitsOf_pos (p := x.natAbs)
      rw [if_pos hx, if_neg hy]
      omega
    · have := unitsOf_strictMono (p := x.natAbs) (q := y.natAbs) (by omega)
      rw [if_neg hx, if_neg hy]
      omega

theorem orderKey_lt_iff {a b : Word} : orderKey a < orderKey b ↔ val a < val b := by
  rw [val_lt_val_iff, exactUnits_eq_keyUnits, exactUnits_eq_keyUnits,
    keyUnits_strictMono.lt_iff_lt]

theorem orderKey_le_iff {a b : Word} : orderKey a ≤ orderKey b ↔ val a ≤ val b := by
  rw [← not_lt, ← not_lt, orderKey_lt_iff]

theorem orderKey_eq_iff {a b : Word} : orderKey a = orderKey b ↔ val a = val b := by
  rw [le_antisymm_iff, le_antisymm_iff, orderKey_le_iff, orderKey_le_iff]

section
variable {a b : Word} (ha : isFinite a = true) (hb : isFinite b = true)
include ha hb

theorem lt32_iff : lt32 a b = true ↔ val a < val b := by
  simp [lt32, isNaN_of_isFinite ha, isNaN_of_isFinite hb, orderKey_lt_iff]

theorem le32_iff : le32 a b = true ↔ val a ≤ val b := by
  simp [le32, isNaN_of_isFinite ha, isNaN_of_isFinite hb, orderKey_le_iff]

theorem gt32_iff : gt32 a b = true ↔ val a > val b := lt32_iff hb ha

theorem ge32_iff : ge32 a b = true ↔ val a ≥ val b := le32_iff hb ha

theorem eq32_iff : eq32 a b = true ↔ val a = val b := by
  simp [eq32, isNaN_of_isFinite ha, isNaN_of_isFinite hb, orderKey_eq_iff]

end

end Sys2Proof.Machine

namespace Sys2Proof.Proofs
open Machine

/-- Settles O57: `orderKey` orders patterns as `val` does, and every comparison tests for NaN. -/
theorem comparisonsAreOfValues : Obligations.ComparisonsAreOfValues := by
  refine ⟨fun a b ha hb => ⟨lt32_iff ha hb, le32_iff ha hb, gt32_iff ha hb, ge32_iff ha hb,
    eq32_iff ha hb⟩, fun a b h => ?_⟩
  rcases h with h | h <;> simp [lt32, le32, gt32, ge32, eq32, h]

end Sys2Proof.Proofs
end

section
/-!
Rounding to nearest as a relation on reals: y rounds to the pattern p when y lies between the midpoints
on either side of p. `roundUnits` meets it, it is convex in y, and it gives `RoundsTo` (R8).
-/
namespace Sys2Proof.Machine

/-- The middle between the magnitudes of the patterns p and p + 1, in units of 2^-149. -/
noncomputable def midpoint (p : Nat) : ℝ := ((unitsOf p : ℝ) + unitsOf (p + 1)) / 2

/-- The magnitude y, in units of 2^-149, rounds to the pattern p: to nearest, ties to even, and from the
last midpoint up to the infinity (R8). -/
structure RoundsMag (y : ℝ) (p : Nat) : Prop where
  le_infMag : p ≤ infMag
  above : ∀ q, q + 1 = p → midpoint q ≤ y ∧ (midpoint q = y → p % 2 = 0)
  below : p < infMag → y ≤ midpoint p ∧ (y = midpoint p → p % 2 = 0)

/-! ### Midpoints -/

theorem unitsOf_lt_midpoint (p : Nat) : (unitsOf p : ℝ) < midpoint p := by
  have : (unitsOf p : ℝ) < unitsOf (p + 1) := by exact_mod_cast unitsOf_strictMono p.lt_succ_self
  unfold midpoint; linarith

theorem midpoint_lt_unitsOf (p : Nat) : midpoint p < unitsOf (p + 1) := by
  have : (unitsOf p : ℝ) < unitsOf (p + 1) := by exact_mod_cast unitsOf_strictMono p.lt_succ_self
  unfold midpoint; linarith

theorem midpoint_pos (p : Nat) : 0 < midpoint p :=
  (Nat.cast_nonneg _).trans_lt (unitsOf_lt_midpoint p)

theorem midpoint_mono {p q : Nat} (h : p ≤ q) : midpoint p ≤ midpoint q := by
  have h1 : (unitsOf p : ℝ) ≤ unitsOf q := by exact_mod_cast unitsOf_le_iff.mpr h
  have h2 : (unitsOf (p + 1) : ℝ) ≤ unitsOf (q + 1) := by
    exact_mod_cast unitsOf_le_iff.mpr (Nat.succ_le_succ h)
  unfold midpoint; linarith

theorem midpoint_max : midpoint (infMag - 1) = (2 ^ 25 - 1) * 2 ^ 252 := by
  have h1 : unitsOf (infMag - 1) = (2 ^ 25 - 2) * 2 ^ 252 := by decide +kernel
  have h2 : unitsOf (infMag - 1 + 1) = 2 ^ 25 * 2 ^ 252 := by decide +kernel
  rw [midpoint, h1, h2]; push_cast; ring

/-- From 2^24 units up every magnitude is even. -/
theorem even_unitsOf {p : Nat} (h : 2 ^ 24 ≤ p) : 2 ∣ unitsOf p := by
  rw [unitsOf, if_neg (by omega)]
  exact Dvd.dvd.mul_left (dvd_pow_self 2 (by omega)) _

/-- From 2^24 units up midpoints are whole, so none lies strictly between two neighbouring integers. -/
theorem midpoint_le_or_ge (p : Nat) {r : Nat} (hr : 2 ^ 24 ≤ r) :
    midpoint p ≤ r ∨ (r : ℝ) + 1 ≤ midpoint p := by
  rcases Nat.lt_or_ge p (2 ^ 24) with hp | hp
  · left
    have hr' : (2 : ℝ) ^ 24 ≤ r := by exact_mod_cast hr
    have htop : midpoint (2 ^ 24 - 1) ≤ 2 ^ 24 := by
      have h1 : unitsOf (2 ^ 24 - 1) = 2 ^ 24 - 1 := by decide +kernel
      have h2 : unitsOf (2 ^ 24 - 1 + 1) = 2 ^ 24 := by decide +kernel
      rw [midpoint, h1, h2]; norm_num
    exact ((midpoint_mono (by omega)).trans htop).trans hr'
  · obtain ⟨m, hm⟩ := even_unitsOf hp
    obtain ⟨n, hn⟩ := even_unitsOf (hp.trans p.le_succ)
    have hmid : midpoint p = ((m + n : Nat) : ℝ) := by
      rw [midpoint, hm, hn]; push_cast; ring
    rw [hmid]
    rcases Nat.lt_or_ge r (m + n) with hlt | hge
    · right; exact_mod_cast hlt
    · left; exact_mod_cast hge

/-! ### What rounds to what -/

/-- What lies between two values that round to p rounds to p. -/
theorem RoundsMag.convex {x y z : ℝ} {p : Nat} (hx : RoundsMag x p) (hz : RoundsMag z p)
    (hxy : x ≤ y) (hyz : y ≤ z) : RoundsMag y p := by
  refine ⟨hx.le_infMag, fun q hq => ?_, fun hp => ?_⟩
  · obtain ⟨hle, htie⟩ := hx.above q hq
    exact ⟨hle.trans hxy, fun h => htie (le_antisymm hle (h ▸ hxy))⟩
  · obtain ⟨hle, htie⟩ := hz.below hp
    exact ⟨hyz.trans hle, fun h => htie (le_antisymm hle (h ▸ hyz))⟩

/-- Between neighbouring integers from 2^24 up everything rounds alike. -/
theorem RoundsMag.of_between {x y : ℝ} {r p : Nat} (h : RoundsMag x p) (hr : 2 ^ 24 ≤ r)
    (hx : r < x ∧ x < r + 1) (hy : r < y ∧ y < r + 1) : RoundsMag y p := by
  refine ⟨h.le_infMag, fun q hq => ?_, fun hp => ?_⟩
  · have hlt : midpoint q < y := by
      rcases midpoint_le_or_ge q hr with hmid | hmid
      · exact hmid.trans_lt hy.1
      · linarith [(h.above q hq).1]
    exact ⟨hlt.le, fun heq => absurd heq hlt.ne⟩
  · have hlt : y < midpoint p := by
      rcases midpoint_le_or_ge p hr with hmid | hmid
      · linarith [(h.below hp).1]
      · exact hy.2.trans_le hmid
    exact ⟨hlt.le, fun heq => absurd heq hlt.ne⟩

/-- What is at least the last midpoint rounds to the infinity. -/
theorem roundsMag_infMag {y : ℝ} (h : midpoint (infMag - 1) ≤ y) : RoundsMag y infMag :=
  ⟨le_rfl, fun q hq => ⟨by rwa [← hq] at h, fun _ => by decide⟩, fun hlt => absurd hlt (lt_irrefl _)⟩

/-- Half of the smallest subnormal and less rounds to 0. -/
theorem roundsMag_zero {y : ℝ} (h : y ≤ 1 / 2) : RoundsMag y 0 := by
  have hmid : midpoint 0 = 1 / 2 := by
    have h1 : unitsOf (0 + 1) = 1 := by decide
    rw [midpoint, h1]; norm_num
  exact ⟨Nat.zero_le _, fun q hq => absurd hq q.succ_ne_zero, fun _ => ⟨hmid ▸ h, fun _ => rfl⟩⟩

/-- The pattern with significand k at exponent step sh. -/
theorem unitsOf_of_significand {sh k : Nat} (hk : k ≤ 2 ^ 24) (hn : 0 < sh → 2 ^ 23 ≤ k) :
    unitsOf (sh * 2 ^ 23 + k) = k * 2 ^ sh := by
  unfold unitsOf
  rcases Nat.eq_or_lt_of_le hk with rfl | hlt
  · rw [show sh * 2 ^ 23 + 2 ^ 24 = (sh + 2) * 2 ^ 23 by ring, if_neg (by omega),
      Nat.mul_div_cancel _ (by norm_num), Nat.mul_mod_left]
    simp only [Nat.add_succ_sub_one, Nat.add_zero]
    ring
  · rcases Nat.lt_or_ge k (2 ^ 23) with hsub | hnorm
    · have hsh : sh = 0 := by omega
      subst hsh
      rw [if_pos (by omega)]; simp
    · rw [if_neg (by omega), show (sh * 2 ^ 23 + k) / 2 ^ 23 - 1 = sh by omega,
        show 2 ^ 23 + (sh * 2 ^ 23 + k) % 2 ^ 23 = k by omega]

/-- Rounding down to p, short of the infinity. -/
theorem roundsMag_down {y : ℝ} {p : Nat} (hlow : unitsOf p ≤ y) (hmid : y ≤ midpoint p)
    (htie : y = midpoint p → p % 2 = 0) : RoundsMag y (min p infMag) := by
  rcases Nat.lt_or_ge p infMag with hp | hp
  · rw [min_eq_left hp.le]
    refine ⟨hp.le, ?_, fun _ => ⟨hmid, htie⟩⟩
    rintro q rfl
    have hlt : midpoint q < y := (midpoint_lt_unitsOf q).trans_le hlow
    exact ⟨hlt.le, fun heq => absurd heq hlt.ne⟩
  · rw [min_eq_right hp]
    have hle : (unitsOf infMag : ℝ) ≤ unitsOf p := by exact_mod_cast unitsOf_le_iff.mpr hp
    exact roundsMag_infMag ((midpoint_lt_unitsOf (infMag - 1)).le.trans (hle.trans hlow))

/-- Rounding up to p + 1, at most to the infinity. -/
theorem roundsMag_up {y : ℝ} {p : Nat} (hmid : midpoint p ≤ y) (hhigh : y ≤ unitsOf (p + 1))
    (htie : midpoint p = y → (p + 1) % 2 = 0) : RoundsMag y (min (p + 1) infMag) := by
  rcases Nat.lt_or_ge (p + 1) infMag with hp | hp
  · rw [min_eq_left hp.le]
    refine ⟨hp.le, ?_, fun _ => ?_⟩
    · intro q hq
      obtain rfl : q = p := Nat.succ_injective hq
      exact ⟨hmid, htie⟩
    · have hlt : y < midpoint (p + 1) := hhigh.trans_lt (unitsOf_lt_midpoint (p + 1))
      exact ⟨hlt.le, fun heq => absurd heq hlt.ne⟩
  · rw [min_eq_right hp]
    exact roundsMag_infMag ((midpoint_mono (by omega)).trans hmid)

/-- The exact fraction, in the units of its own exponent: its significand before rounding, and the rest. -/
theorem div_eq_significand_add_rest (num : Nat) {den : Nat} (hden : 0 < den) (sh : Nat) :
    (num : ℝ) / den = ((num / (den * 2 ^ sh) : Nat) +
      ((num % (den * 2 ^ sh) : Nat) : ℝ) / (den * 2 ^ sh : Nat)) * 2 ^ sh := by
  have hnum := Nat.div_add_mod num (den * 2 ^ sh)
  generalize num / (den * 2 ^ sh) = k at *
  generalize num % (den * 2 ^ sh) = r at *
  rw [← hnum]
  push_cast
  field_simp

theorem midpoint_of_significand {sh k : Nat} (hk24 : k < 2 ^ 24) (hk23 : 0 < sh → 2 ^ 23 ≤ k) :
    midpoint (sh * 2 ^ 23 + k) = (k + 1 / 2) * 2 ^ sh := by
  have hlow := unitsOf_of_significand hk24.le hk23
  have hhigh := unitsOf_of_significand (sh := sh) (k := k + 1) (by omega) (by omega)
  rw [midpoint, Nat.add_assoc, hlow, hhigh]
  push_cast; ring

/-- A significand k and the rest r / d of a unit, rounded as `roundUnits` rounds them. -/
theorem roundsMag_of_significand {sh k d r : Nat} (hk24 : k < 2 ^ 24) (hk23 : 0 < sh → 2 ^ 23 ≤ k)
    (hr : r < d) : RoundsMag ((k + (r : ℝ) / d) * 2 ^ sh)
      (min (sh * 2 ^ 23 + if 2 * r > d ∨ (2 * r = d ∧ k % 2 = 1) then k + 1 else k) infMag) := by
  have hmid := midpoint_of_significand hk24 hk23
  have hd : (0 : ℝ) < d := by exact_mod_cast (by omega : 0 < d)
  have hpow : (0 : ℝ) < 2 ^ sh := by positivity
  have htie : (r : ℝ) / d = 1 / 2 → 2 * r = d := by
    intro h
    rw [div_eq_iff hd.ne'] at h
    exact_mod_cast (by linarith : 2 * (r : ℝ) = d)
  split
  · rename_i hup
    have hhigh := unitsOf_of_significand (sh := sh) (k := k + 1) (by omega) (by omega)
    have hhalf : 1 / 2 ≤ (r : ℝ) / d := by
      have : (d : ℝ) ≤ 2 * r := by exact_mod_cast (by omega : d ≤ 2 * r)
      rw [le_div_iff₀ hd]; linarith
    rw [← Nat.add_assoc] at hhigh ⊢
    refine roundsMag_up ?_ ?_ ?_
    · rw [hmid]; gcongr
    · rw [hhigh]; push_cast
      gcongr
      rw [div_le_one hd]; exact_mod_cast hr.le
    · rw [hmid, mul_left_inj' hpow.ne', add_right_inj]
      intro heq
      have := htie heq.symm
      omega
  · rename_i hdown
    have hlow := unitsOf_of_significand hk24.le hk23
    have hhalf : (r : ℝ) / d ≤ 1 / 2 := by
      have : 2 * (r : ℝ) ≤ d := by exact_mod_cast (by omega : 2 * r ≤ d)
      rw [div_le_iff₀ hd]; linarith
    refine roundsMag_down ?_ ?_ ?_
    · rw [hlow]; push_cast
      gcongr
      exact le_add_of_nonneg_right (by positivity)
    · rw [hmid]; gcongr
    · rw [hmid, mul_left_inj' hpow.ne', add_right_inj]
      intro heq
      have := htie heq
      omega

/-- `roundUnits` rounds the exact fraction once, to nearest, ties to even (R8). -/
theorem roundsMag_roundUnits (num : Nat) {den : Nat} (hden : 0 < den) :
    RoundsMag ((num : ℝ) / den) (roundUnits num den) := by
  rw [roundUnits_eq, div_eq_significand_add_rest num hden (shiftOf num den)]
  exact roundsMag_of_significand quot_lt le_quot (Nat.mod_lt _ (by positivity))

/-! ### From magnitudes to signed values -/

/-- The real of magnitude y and the given sign. -/
def signed (neg : Bool) (y : ℝ) : ℝ := if neg then -y else y

theorem abs_signed (neg : Bool) (y : ℝ) : |signed neg y| = |y| := by
  cases neg <;> simp [signed]

theorem signed_mul (m n : Bool) (x y : ℝ) :
    signed m x * signed n y = signed (m != n) (x * y) := by
  cases m <;> cases n <;> simp [signed]

theorem signed_div (m n : Bool) (x y : ℝ) :
    signed m x / signed n y = signed (m != n) (x / y) := by
  cases m <;> cases n <;> simp [signed, neg_div, div_neg]

theorem signed_div_right (m : Bool) (x c : ℝ) : signed m x / c = signed m (x / c) := by
  cases m <;> simp [signed, neg_div]

theorem signed_signed (m n : Bool) (x : ℝ) : signed m (signed n x) = signed (m != n) x := by
  cases m <;> cases n <;> simp [signed]

theorem signed_signed_self (m : Bool) (x : ℝ) : signed m (signed m x) = x := by
  cases m <;> simp [signed]

theorem intCast_eq_signed (z : Int) : (z : ℝ) = signed (decide (z < 0)) z.natAbs := by
  rcases lt_or_ge z 0 with h | h
  · simp [signed, h, Nat.cast_natAbs, abs_of_neg h]
  · simp [signed, not_lt.mpr h, Nat.cast_natAbs, abs_of_nonneg h]

theorem mul_signed (c : ℝ) (neg : Bool) (x : ℝ) : c * signed neg x = signed neg (c * x) := by
  cases neg <;> simp [signed]

theorem signed_neg_iff {neg : Bool} {y : ℝ} (hy : 0 < y) : signed neg y < 0 ↔ neg = true := by
  cases neg
  · simpa [signed] using hy.le
  · simpa [signed] using hy

theorem val_eq_signed (a : Word) :
    (val a : ℝ) = signed (signBit a) (unitsOf (magBits a)) / 2 ^ 149 := by
  cases h : signBit a <;> simp [val, exactUnits, signed, h]

theorem val_packSign {p : Nat} (hp : p < 2 ^ 31) (neg : Bool) :
    (val (packSign neg p) : ℝ) = signed neg (unitsOf p) / 2 ^ 149 := by
  rw [val_eq_signed, signBit_packSign hp, magBits_packSign hp]

theorem abs_signed_sub_signed (m : Bool) (x y : ℝ) : |signed m x - signed m y| = |x - y| := by
  rw [← abs_signed m (x - y)]; congr 1; cases m <;> simp [signed]; ring

/-- A magnitude of the other sign is no nearer. -/
theorem abs_sub_le_abs_signed_sub {m n : Bool} {u y : ℝ} (hu : 0 ≤ u) (hy : 0 ≤ y) :
    |u - y| ≤ |signed m u - signed n y| := by
  have hsame : |u - y| = |-u + y| := by rw [← abs_neg]; ring_nf
  have hother : |u - y| ≤ |u + y| := by
    rw [abs_of_nonneg (add_nonneg hu hy)]; exact abs_le.mpr ⟨by linarith, by linarith⟩
  have hother' : |u - y| ≤ |-u - y| := by
    rw [← abs_neg (-u - y), neg_sub, sub_neg_eq_add, add_comm]; exact hother
  cases m <;> cases n <;> simp [signed, hsame.le, hother, hother']

/-- A positive magnitude of the other sign is farther. -/
theorem abs_sub_lt_abs_signed_sub {m n : Bool} {u y : ℝ} (hmn : m ≠ n) (hu : 0 < u) (hy : 0 < y) :
    |u - y| < |signed m u - signed n y| := by
  have hsum : |signed m u - signed n y| = |u + y| := by
    cases m <;> cases n <;> simp only [ne_eq, not_true_eq_false] at hmn
    · simp [signed]
    · rw [← abs_neg]; simp [signed, add_comm]
  rw [hsum, abs_of_pos (add_pos hu hy)]
  exact abs_lt.mpr ⟨by linarith, by linarith⟩

/-- Among the magnitudes of patterns, the one y rounds to is nearest to y; a second nearest one is met
only from an even pattern. -/
theorem RoundsMag.nearest {y : ℝ} {p q : Nat} (h : RoundsMag y p) (hp : p < infMag) (hpq : q ≠ p) :
    |unitsOf p - y| < |unitsOf q - y| ∨ (|unitsOf p - y| = |unitsOf q - y| ∧ p % 2 = 0) := by
  suffices hle : |unitsOf p - y| ≤ |unitsOf q - y| ∧
      (|unitsOf p - y| = |unitsOf q - y| → p % 2 = 0) by
    obtain ⟨hle, htie⟩ := hle
    exact hle.lt_or_eq.imp_right fun heq => ⟨heq, htie heq⟩
  rcases Nat.lt_or_gt_of_ne hpq with hlt | hgt
  · obtain ⟨r, rfl⟩ : ∃ r, p = r + 1 := ⟨p - 1, by omega⟩
    obtain ⟨hmid, htie⟩ := h.above r rfl
    have hq : (unitsOf q : ℝ) ≤ unitsOf r := by exact_mod_cast unitsOf_le_iff.mpr (by omega)
    have hr := (unitsOf_lt_midpoint r).trans_le hmid
    rw [abs_of_nonpos (a := (unitsOf q : ℝ) - y) (by linarith)]
    have hsum : 2 * midpoint r = unitsOf r + unitsOf (r + 1) := by unfold midpoint; ring
    rcases le_total y (unitsOf (r + 1)) with hy | hy
    · rw [abs_of_nonneg (by linarith)]
      exact ⟨by linarith, fun heq => htie (by linarith)⟩
    · have := midpoint_lt_unitsOf r
      rw [abs_of_nonpos (by linarith)]
      exact ⟨by linarith, fun heq => by linarith⟩
  · obtain ⟨hmid, htie⟩ := h.below hp
    have hq : (unitsOf (p + 1) : ℝ) ≤ unitsOf q := by exact_mod_cast unitsOf_le_iff.mpr hgt
    have hr := hmid.trans_lt (midpoint_lt_unitsOf p)
    rw [abs_of_nonneg (a := (unitsOf q : ℝ) - y) (by linarith)]
    have hsum : 2 * midpoint p = unitsOf p + unitsOf (p + 1) := by unfold midpoint; ring
    rcases le_total (unitsOf p : ℝ) y with hy | hy
    · rw [abs_of_nonpos (by linarith)]
      exact ⟨by linarith, fun heq => htie (by linarith)⟩
    · have := unitsOf_lt_midpoint p
      rw [abs_of_nonneg (by linarith)]
      exact ⟨by linarith, fun heq => by linarith⟩

theorem RoundsMag.pos_of_pos {y : ℝ} {p : Nat} (h : RoundsMag y p) (hp : 0 < p) : 0 < y := by
  obtain ⟨q, rfl⟩ : ∃ q, p = q + 1 := ⟨p - 1, by omega⟩
  exact (midpoint_pos q).trans_le (h.above q rfl).1

/-- The overflow threshold of `RoundsTo` is the last midpoint. -/
theorem RoundsMag.lt_threshold_iff {y : ℝ} {p : Nat} (h : RoundsMag y p) :
    y / 2 ^ 149 < 2 ^ 128 - 2 ^ 103 ↔ p < infMag := by
  have hmax : midpoint (infMag - 1) = (2 ^ 128 - 2 ^ 103) * 2 ^ 149 := by rw [midpoint_max]; ring
  rw [div_lt_iff₀ (by positivity), ← hmax]
  constructor
  · intro hlt
    refine lt_of_le_of_ne h.le_infMag fun hp => ?_
    exact absurd (h.above (infMag - 1) (by rw [hp]; rfl)).1 (not_le.mpr hlt)
  · intro hp
    obtain ⟨hle, htie⟩ := h.below hp
    rcases Nat.lt_or_eq_of_le (Nat.le_sub_one_of_lt hp) with hlt | rfl
    · calc y < unitsOf (p + 1) := hle.trans_lt (midpoint_lt_unitsOf p)
        _ ≤ unitsOf (infMag - 1) := by exact_mod_cast unitsOf_le_iff.mpr hlt
        _ < midpoint (infMag - 1) := unitsOf_lt_midpoint _
    · exact lt_of_le_of_ne hle fun heq => absurd (htie heq) (by decide)

/-- A real whose magnitude rounds to p rounds to p with its own sign (R8). -/
theorem RoundsMag.roundsTo {y : ℝ} {p : Nat} (h : RoundsMag y p) (hy : 0 ≤ y) (neg : Bool) :
    RoundsTo (signed neg y / 2 ^ 149) (packSign neg p) := by
  have hp31 : p < 2 ^ 31 := h.le_infMag.trans_lt infMag_lt
  have habs : |signed neg y / 2 ^ 149| = y / 2 ^ 149 := by
    rw [abs_div, abs_signed, abs_of_nonneg hy, abs_of_pos (by positivity)]
  have hdist : ∀ u v : ℝ, |u / 2 ^ 149 - v / 2 ^ 149| = |u - v| / 2 ^ 149 := by
    intro u v; rw [← sub_div, abs_div, abs_of_pos (by positivity : (0 : ℝ) < 2 ^ 149)]
  unfold RoundsTo
  rw [habs]
  split
  · rename_i hlt
    have hp : p < infMag := h.lt_threshold_iff.mp hlt
    refine ⟨isFinite_packSign hp neg, fun c _ hne => ?_⟩
    rw [val_packSign hp31, val_eq_signed c, hdist, hdist, abs_signed_sub_signed,
      div_lt_div_iff_of_pos_right (by positivity), div_left_inj' (by positivity),
      toNat_packSign_mod_two hp31]
    have hother : |unitsOf (magBits c) - y| ≤
        |signed (signBit c) (unitsOf (magBits c)) - signed neg y| :=
      abs_sub_le_abs_signed_sub (Nat.cast_nonneg _) hy
    by_cases hmag : magBits c = p
    · have hsign : signBit c ≠ neg := fun hs =>
        hne (by rw [← packSign_signBit_magBits c, hs, hmag])
      have hp0 : 0 < p := by
        refine Nat.pos_of_ne_zero ?_
        rintro rfl
        exact hne (by rw [val_eq_zero_iff.mpr (by simp [isZero, hmag]),
          val_eq_zero_iff.mpr (by simp [isZero, magBits_packSign])])
      rw [hmag]
      exact .inl (abs_sub_lt_abs_signed_sub hsign (by exact_mod_cast unitsOf_pos.mpr hp0)
        (h.pos_of_pos hp0))
    · rcases h.nearest hp hmag with hlt | ⟨heq, heven⟩
      · exact .inl (hlt.trans_le hother)
      · rcases hother.lt_or_eq with hlt | heq'
        · exact .inl (heq.trans_lt hlt)
        · exact .inr ⟨heq.trans heq', heven⟩
  · rename_i hge
    have hp : p = infMag :=
      le_antisymm h.le_infMag (not_lt.mp fun hp => hge (h.lt_threshold_iff.mpr hp))
    have hpos : 0 < y := h.pos_of_pos (by rw [hp]; decide)
    have hneg : signed neg y / 2 ^ 149 < 0 ↔ neg = true := by
      rw [div_lt_iff₀ (by positivity), zero_mul, signed_neg_iff hpos]
    simp [hp, hneg]

end Sys2Proof.Machine
end

section
/-!
The arithmetic primitives, floor and fraction against real arithmetic (R8).
-/
namespace Sys2Proof.Machine

/-! ### Sums, products, quotients and integers -/

theorem roundsTo_packSign_zero (neg : Bool) : RoundsTo 0 (packSign neg 0) := by
  have h := (roundsMag_zero (y := 0) (by norm_num)).roundsTo le_rfl neg
  simpa [signed] using h

/-- `roundInt` rounds a whole number of units once. -/
theorem roundsTo_roundInt (z : Int) (negZero : Bool) :
    RoundsTo ((z : ℝ) / 2 ^ 149) (roundInt z negZero) := by
  unfold roundInt
  split
  · rename_i h
    simpa [h] using roundsTo_packSign_zero negZero
  · have hround := roundsMag_roundUnits z.natAbs one_pos
    rw [Nat.cast_one, div_one] at hround
    rw [intCast_eq_signed]
    exact hround.roundsTo (Nat.cast_nonneg _) _

theorem i2f32_roundsTo (n : Int) : RoundsTo (n : ℝ) (i2f32 n) := by
  have h := roundsTo_roundInt (n * 2 ^ 149) false
  rwa [Int.cast_mul, Int.cast_pow, Int.cast_ofNat, mul_div_cancel_right₀ _ (by positivity)] at h

section
variable {a b : Word} (ha : isFinite a = true) (hb : isFinite b = true)
include ha hb

theorem add32_eq_roundInt :
    add32 a b = roundInt (exactUnits a + exactUnits b) (signBit a && signBit b) := by
  simp [add32, isNaN_of_isFinite ha, isNaN_of_isFinite hb, isInf_of_isFinite ha,
    isInf_of_isFinite hb]

theorem add32_roundsTo : RoundsTo ((val a : ℝ) + val b) (add32 a b) := by
  rw [add32_eq_roundInt ha hb]
  have h := roundsTo_roundInt (exactUnits a + exactUnits b) (signBit a && signBit b)
  simpa [val, add_div] using h

theorem sub32_roundsTo : RoundsTo ((val a : ℝ) - val b) (sub32 a b) := by
  have h := add32_roundsTo ha ((isFinite_neg32 b).trans hb)
  simpa [sub32, sub_eq_add_neg] using h

theorem mul32_roundsTo : RoundsTo ((val a : ℝ) * val b) (mul32 a b) := by
  have hmul : mul32 a b = packSign (signBit a != signBit b)
      (roundUnits (unitsOf (magBits a) * unitsOf (magBits b)) (2 ^ 149)) := by
    simp [mul32, isNaN_of_isFinite ha, isNaN_of_isFinite hb, isInf_of_isFinite ha,
      isInf_of_isFinite hb]
  have hval : (val a : ℝ) * val b = signed (signBit a != signBit b)
      ((unitsOf (magBits a) * unitsOf (magBits b) : Nat) / (2 ^ 149 : Nat)) / 2 ^ 149 := by
    rw [val_eq_signed a, val_eq_signed b, div_mul_div_comm, signed_mul, ← div_div,
      signed_div_right _ _ (2 ^ 149), Nat.cast_mul, Nat.cast_pow, Nat.cast_ofNat]
  rw [hmul, hval]
  exact (roundsMag_roundUnits _ (by positivity)).roundsTo (by positivity) _

theorem div32_roundsTo (h0 : val b ≠ 0) : RoundsTo ((val a : ℝ) / val b) (div32 a b) := by
  have hzero : isZero b = false := by rwa [ne_eq, val_eq_zero_iff, Bool.not_eq_true] at h0
  have hdiv : div32 a b = packSign (signBit a != signBit b)
      (roundUnits (unitsOf (magBits a) * 2 ^ 149) (unitsOf (magBits b))) := by
    simp [div32, isNaN_of_isFinite ha, isNaN_of_isFinite hb, isInf_of_isFinite ha,
      isInf_of_isFinite hb, hzero]
  have hpos : 0 < unitsOf (magBits b) :=
    unitsOf_pos.mpr (Nat.pos_of_ne_zero (of_decide_eq_false hzero))
  have hval : (val a : ℝ) / val b = signed (signBit a != signBit b)
      ((unitsOf (magBits a) * 2 ^ 149 : Nat) / (unitsOf (magBits b) : Nat)) / 2 ^ 149 := by
    rw [val_eq_signed a, val_eq_signed b, div_div_div_cancel_right₀ (by positivity), signed_div,
      signed_div_right _ _ (2 ^ 149), Nat.cast_mul, Nat.cast_pow, Nat.cast_ofNat, div_right_comm,
      mul_div_cancel_right₀ _ (by positivity)]
  rw [hdiv, hval]
  exact (roundsMag_roundUnits _ hpos).roundsTo (by positivity) _

end

/-! ### Square root -/

/-- Bit by bit from above, `isqrtFrom` finds the library's integer square root. -/
theorem isqrtFrom_eq_sqrt {n bits r : Nat} (hlow : r ≤ n.sqrt) (hhigh : n.sqrt < r + 2 ^ bits) :
    isqrtFrom n bits r = n.sqrt := by
  induction bits generalizing r with
  | zero => rw [isqrtFrom]; omega
  | succ b ih =>
    rw [isqrtFrom]
    split
    · exact ih (Nat.le_sqrt.mpr ‹_›) (by omega)
    · exact ih hlow (by rwa [← Nat.le_sqrt, not_le] at *)

theorem isqrt_eq_sqrt {n : Nat} (h : n < 2 ^ 214 * 2 ^ 214) : isqrt n = n.sqrt := by
  refine isqrtFrom_eq_sqrt n.sqrt.zero_le ?_
  rwa [zero_add, Nat.sqrt_lt]

/-- With half a unit for an inexact root, `roundUnits` rounds the real root of n once. -/
theorem roundsMag_sqrt {n : Nat} (h : 2 ^ 48 ≤ n) :
    RoundsMag (Real.sqrt n)
      (roundUnits (2 * n.sqrt + if n.sqrt * n.sqrt = n then 0 else 1) 2) := by
  have hround := roundsMag_roundUnits (2 * n.sqrt + if n.sqrt * n.sqrt = n then 0 else 1) two_pos
  split at hround
  · rename_i hexact
    have hroot : Real.sqrt n = (2 * n.sqrt + 0 : Nat) / (2 : Nat) := by
      rw [Real.sqrt_eq_iff_mul_self_eq (by positivity) (by positivity)]
      push_cast
      rw [add_zero, mul_div_cancel_left₀ _ two_ne_zero]
      exact_mod_cast hexact.symm
    rwa [hroot, if_pos hexact]
  · rename_i hinexact
    rw [if_neg hinexact]
    have hlow : n.sqrt * n.sqrt < n := lt_of_le_of_ne n.sqrt_le hinexact
    have hhigh : n < (n.sqrt + 1) * (n.sqrt + 1) := n.lt_succ_sqrt
    refine hround.of_between (r := n.sqrt) (Nat.le_sqrt.mpr (by simpa using h)) ⟨?_, ?_⟩ ⟨?_, ?_⟩
    · push_cast; linarith
    · push_cast; linarith
    · refine Real.lt_sqrt_of_sq_lt ?_
      rw [sq]; exact_mod_cast hlow
    · rw [Real.sqrt_lt' (by positivity), sq]; exact_mod_cast hhigh

theorem unitsOf_lt_of_lt_infMag {p : Nat} (h : p < infMag) : unitsOf p < 2 ^ 24 * 2 ^ 253 := by
  have hinf : unitsOf infMag = 2 ^ 24 * 2 ^ 253 := by decide +kernel
  exact hinf ▸ unitsOf_strictMono h

theorem val_nonneg_iff {a : Word} : 0 ≤ val a ↔ 0 ≤ exactUnits a := by
  rw [val, le_div_iff₀ (by positivity), zero_mul, Int.cast_nonneg_iff]

theorem signBit_of_val_pos {a : Word} (h : 0 < val a) : signBit a = false := by
  by_contra hs
  have hunits : exactUnits a = -(unitsOf (magBits a) : Int) := by
    rw [exactUnits, if_pos (by simpa using hs)]
  have h0 := val_nonneg_iff.mp h.le
  have hne : exactUnits a ≠ 0 := fun h0 => h.ne' (val_eq_zero_iff.mpr (exactUnits_eq_zero_iff.mp h0))
  omega

theorem eq_packSign_zero {a : Word} (h : isZero a = true) : a = packSign (signBit a) 0 := by
  have hmag : magBits a = 0 := of_decide_eq_true h
  rw [← hmag, packSign_signBit_magBits]

/-- `sqrt32` of a positive value rounds the root of its units, scaled by 2^149. -/
theorem sqrt32_roundsTo_of_pos {a : Word} (ha : isFinite a = true) (h0 : 0 < val a) :
    RoundsTo (Real.sqrt (val a)) (sqrt32 a) := by
  have hsign := signBit_of_val_pos h0
  have hz : isZero a = false := by
    rw [← Bool.not_eq_true, ← val_eq_zero_iff]; exact h0.ne'
  have hpos : 0 < unitsOf (magBits a) :=
    unitsOf_pos.mpr (Nat.pos_of_ne_zero (of_decide_eq_false hz))
  have hlt := unitsOf_lt_of_lt_infMag (magBits_lt_infMag ha)
  set n := unitsOf (magBits a) * 2 ^ 149 with hn
  have hsqrt : sqrt32 a =
      packSign false (roundUnits (2 * n.sqrt + if n.sqrt * n.sqrt = n then 0 else 1) 2) := by
    simp only [sqrt32, isNaN_of_isFinite ha, isInf_of_isFinite ha, hz, hsign, Bool.false_eq_true,
      if_false]
    rw [← hn, isqrt_eq_sqrt (by omega)]
  have hroot : Real.sqrt (val a) = signed false (Real.sqrt n) / 2 ^ 149 := by
    have hva : (val a : ℝ) = n / (2 ^ 149) ^ 2 := by
      rw [val_eq_signed, hsign, hn, Nat.cast_mul, Nat.cast_pow, Nat.cast_ofNat, sq,
        mul_div_mul_right _ _ (by positivity)]
      rfl
    rw [hva, Real.sqrt_div' _ (by positivity), Real.sqrt_sq (by positivity)]
    rfl
  rw [hsqrt, hroot]
  exact (roundsMag_sqrt (by omega)).roundsTo (Real.sqrt_nonneg _) false

theorem sqrt32_roundsTo {a : Word} (ha : isFinite a = true) (h0 : 0 ≤ val a) :
    RoundsTo (Real.sqrt (val a)) (sqrt32 a) := by
  rcases h0.eq_or_lt with hzero | hpos
  · have hz : isZero a = true := val_eq_zero_iff.mp hzero.symm
    have hsqrt : sqrt32 a = a := by simp [sqrt32, isNaN_of_isFinite ha, hz]
    rw [hsqrt, ← hzero, Rat.cast_zero, Real.sqrt_zero, eq_packSign_zero hz]
    exact roundsTo_packSign_zero _
  · exact sqrt32_roundsTo_of_pos ha hpos

/-! ### Floor and fraction -/

/-- The magnitudes of finite patterns are the multiples of a power of two with a significand of 24 bits. -/
theorem unitsOf_eq_mul_two_pow (p : Nat) : ∃ m e, m < 2 ^ 24 ∧ unitsOf p = m * 2 ^ e := by
  unfold unitsOf
  split
  · exact ⟨p, 0, by omega, by simp⟩
  · exact ⟨_, _, by omega, rfl⟩

theorem exists_unitsOf_eq {m : Nat} (e : Nat) (hm : m ≤ 2 ^ 24) (hlt : m * 2 ^ e < 2 ^ 24 * 2 ^ 253) :
    ∃ p < infMag, unitsOf p = m * 2 ^ e := by
  have hinf : unitsOf infMag = 2 ^ 24 * 2 ^ 253 := by decide +kernel
  rw [← hinf] at hlt
  induction e generalizing m with
  | zero =>
    have h := unitsOf_of_significand (sh := 0) hm (by simp)
    rw [← h] at hlt ⊢
    exact ⟨_, unitsOf_lt_iff.mp hlt, rfl⟩
  | succ e ih =>
    rcases Nat.lt_or_ge m (2 ^ 23) with hsub | hnorm
    · have hshift : m * 2 ^ (e + 1) = 2 * m * 2 ^ e := by ring
      rw [hshift] at hlt ⊢
      exact ih (by omega) hlt
    · have h := unitsOf_of_significand (sh := e + 1) hm fun _ => hnorm
      rw [← h] at hlt ⊢
      exact ⟨_, unitsOf_lt_iff.mp hlt, rfl⟩

/-- A whole number of units that a pattern has is rounded to itself. -/
theorem exactUnits_roundInt {z : Int} {p : Nat} (hp : p < infMag) (hz : unitsOf p = z.natAbs)
    (negZero : Bool) :
    isFinite (roundInt z negZero) = true ∧ exactUnits (roundInt z negZero) = z := by
  unfold roundInt
  split
  · rename_i h0
    exact ⟨isFinite_packSign (by decide) _, by rw [exactUnits_packSign (by norm_num)]; simp [h0]⟩
  · rw [← hz, roundUnits_unitsOf hp]
    refine ⟨isFinite_packSign hp _, ?_⟩
    rw [exactUnits_packSign (hp.trans infMag_lt), hz]
    simp only [decide_eq_true_eq]
    split <;> omega

/-- The magnitude of `floor32`, whichever way it goes, is that of a finite pattern. -/
theorem exists_unitsOf_eq_floor {p k : Nat} (hp : p < infMag)
    (hk : k = unitsOf p / 2 ^ 149 ∨ (k = unitsOf p / 2 ^ 149 + 1 ∧ unitsOf p % 2 ^ 149 ≠ 0)) :
    ∃ q < infMag, unitsOf q = k * 2 ^ 149 := by
  by_cases hwhole : unitsOf p % 2 ^ 149 = 0
  · exact ⟨p, hp, by omega⟩
  · obtain ⟨m, e, hm, hu⟩ := unitsOf_eq_mul_two_pow p
    have he : e < 149 := by
      by_contra he
      refine hwhole (Nat.mod_eq_zero_of_dvd ?_)
      rw [hu]
      exact Dvd.dvd.mul_left (pow_dvd_pow 2 (by omega)) m
    have hsmall : unitsOf p < 2 ^ 24 * 2 ^ 148 := by
      rw [hu]
      calc m * 2 ^ e < 2 ^ 24 * 2 ^ e := Nat.mul_lt_mul_of_pos_right hm (by positivity)
        _ ≤ 2 ^ 24 * 2 ^ 148 := Nat.mul_le_mul_left _ (Nat.pow_le_pow_right two_pos (by omega))
    exact exists_unitsOf_eq 149 (by omega) (by omega)

/-- `floor32` is exact: the whole multiple of 2^149 units below its operand. -/
theorem exactUnits_floor32 {a : Word} (ha : isFinite a = true) :
    isFinite (floor32 a) = true ∧
      exactUnits (floor32 a) = exactUnits a / 2 ^ 149 * 2 ^ 149 := by
  rcases Bool.eq_false_or_eq_true (isZero a) with hz | hz
  · have hfloor : floor32 a = a := by simp [floor32, isNaN_of_isFinite ha, hz]
    rw [hfloor, exactUnits_eq_zero_iff.mpr hz]
    exact ⟨ha, rfl⟩
  · set u := unitsOf (magBits a) with hu
    set k := if signBit a && decide (u % 2 ^ 149 ≠ 0) then u / 2 ^ 149 + 1 else u / 2 ^ 149 with hk
    have hfloor : floor32 a = packSign (signBit a) (roundUnits (k * 2 ^ 149) 1) := by
      simp only [floor32, isNaN_of_isFinite ha, isInf_of_isFinite ha, hz, Bool.or_self,
        Bool.false_eq_true, if_false, ← hu, ← hk]
    have hk' : k = u / 2 ^ 149 ∨ (k = u / 2 ^ 149 + 1 ∧ u % 2 ^ 149 ≠ 0) := by
      rw [hk]
      split
      · rename_i h
        simp only [Bool.and_eq_true, decide_eq_true_eq] at h
        exact .inr ⟨rfl, h.2⟩
      · exact .inl rfl
    obtain ⟨q, hq, huq⟩ := exists_unitsOf_eq_floor (magBits_lt_infMag ha) hk'
    rw [hfloor, ← huq, roundUnits_unitsOf hq]
    refine ⟨isFinite_packSign hq _, ?_⟩
    rw [exactUnits_packSign (hq.trans infMag_lt), huq, exactUnits, ← hu]
    cases hs : signBit a
    · simp only [hs, Bool.false_and, Bool.false_eq_true, if_false] at hk ⊢
      omega
    · simp only [hs, Bool.true_and, decide_eq_true_eq, if_true] at hk ⊢
      split at hk <;> omega

/-- `frac32` rounds the exact fraction. -/
theorem frac32_eq_roundInt {a : Word} (ha : isFinite a = true) :
    ∃ negZero, frac32 a = roundInt (exactUnits a % 2 ^ 149) negZero := by
  obtain ⟨hfin, hfloor⟩ := exactUnits_floor32 ha
  have hsum := add32_eq_roundInt ha ((isFinite_neg32 _).trans hfin)
  rw [exactUnits_neg32, hfloor, ← sub_eq_add_neg, mul_comm, ← Int.emod_def] at hsum
  exact ⟨_, hsum⟩

theorem floor_val (a : Word) : ⌊val a⌋ = exactUnits a / 2 ^ 149 := by
  have h := Rat.floor_intCast_div_natCast (exactUnits a) (2 ^ 149)
  push_cast at h
  exact h

theorem floor32_isFloor {a : Word} (ha : isFinite a = true) :
    isFinite (floor32 a) = true ∧ val (floor32 a) = (⌊val a⌋ : ℚ) := by
  obtain ⟨hfin, hfloor⟩ := exactUnits_floor32 ha
  refine ⟨hfin, ?_⟩
  rw [floor_val, val, hfloor, Int.cast_mul, Int.cast_pow, Int.cast_ofNat,
    mul_div_cancel_right₀ _ (by positivity)]

/-- The fraction of a value from 0 up needs no more bits than the value. -/
theorem exists_unitsOf_eq_mod (p : Nat) :
    ∃ q < infMag, unitsOf q = unitsOf p % 2 ^ 149 := by
  obtain ⟨m, e, hm, hu⟩ := unitsOf_eq_mul_two_pow p
  rcases Nat.lt_or_ge e 149 with he | he
  · have hsplit : 2 ^ 149 = 2 ^ (149 - e) * 2 ^ e := by rw [← pow_add]; congr 1; omega
    have hmod : unitsOf p % 2 ^ 149 = m % 2 ^ (149 - e) * 2 ^ e := by
      rw [hu, hsplit, Nat.mul_mod_mul_right]
    have hlt : unitsOf p % 2 ^ 149 < 2 ^ 149 := Nat.mod_lt _ (by positivity)
    rw [hmod] at hlt ⊢
    exact exists_unitsOf_eq e ((Nat.mod_le _ _).trans hm.le) (by omega)
  · refine ⟨0, by decide, ?_⟩
    rw [hu, Nat.mod_eq_zero_of_dvd (Dvd.dvd.mul_left (pow_dvd_pow 2 he) m), unitsOf_zero]

theorem frac32_of_nonneg {a : Word} (ha : isFinite a = true) (h0 : 0 ≤ val a) :
    isFinite (frac32 a) = true ∧ val (frac32 a) = Int.fract (val a) := by
  obtain ⟨negZero, hfrac⟩ := frac32_eq_roundInt ha
  obtain ⟨q, hq, huq⟩ := exists_unitsOf_eq_mod (magBits a)
  have hunits : unitsOf q = (exactUnits a % 2 ^ 149).natAbs := by
    rw [val_nonneg_iff] at h0
    have habs : (exactUnits a).natAbs = unitsOf (magBits a) := by unfold exactUnits; split <;> simp
    omega
  obtain ⟨hfin, hexact⟩ := exactUnits_roundInt hq hunits negZero
  rw [hfrac]
  refine ⟨hfin, ?_⟩
  rw [Int.fract, floor_val, val, val, hexact, Int.emod_def, Int.cast_sub, Int.cast_mul,
    Int.cast_pow, Int.cast_ofNat, sub_div, mul_div_cancel_left₀ _ (by positivity)]

/-- A whole number of units from 0 up to a pattern's is rounded to no more than that. -/
theorem exactUnits_roundInt_le {z : Int} {p : Nat} (hp : p < infMag) (h0 : 0 ≤ z)
    (hz : z.natAbs ≤ unitsOf p) (negZero : Bool) :
    isFinite (roundInt z negZero) = true ∧ 0 ≤ exactUnits (roundInt z negZero) ∧
      exactUnits (roundInt z negZero) ≤ unitsOf p := by
  unfold roundInt
  split
  · refine ⟨isFinite_packSign (by decide) _, ?_⟩
    rw [exactUnits_packSign (by norm_num)]
    simp
  · have hle : roundUnits z.natAbs 1 ≤ p := by
      rw [← roundUnits_unitsOf hp]
      exact roundUnits_mono one_pos one_pos (by omega)
    have hlt : roundUnits z.natAbs 1 < infMag := hle.trans_lt hp
    refine ⟨isFinite_packSign hlt _, ?_⟩
    rw [exactUnits_packSign (hlt.trans infMag_lt), if_neg (by simpa using h0)]
    exact ⟨by omega, by exact_mod_cast unitsOf_le_iff.mpr hle⟩

/-- The fraction is below 1 before it is rounded, so it is at most 1 after. -/
theorem frac32_mem_unit {a : Word} (ha : isFinite a = true) :
    isFinite (frac32 a) = true ∧ 0 ≤ val (frac32 a) ∧ val (frac32 a) ≤ 1 := by
  obtain ⟨negZero, hfrac⟩ := frac32_eq_roundInt ha
  have h0 : 0 ≤ exactUnits a % 2 ^ 149 := Int.emod_nonneg _ (by norm_num)
  have h1 : exactUnits a % 2 ^ 149 < 2 ^ 149 := Int.emod_lt_of_pos _ (by norm_num)
  have hone : unitsOf 0x3F800000 = 2 ^ 149 := by decide +kernel
  obtain ⟨hfin, hnonneg, hle⟩ := exactUnits_roundInt_le (p := 0x3F800000) (by decide) h0
    (by rw [hone]; omega) negZero
  rw [hfrac]
  refine ⟨hfin, val_nonneg_iff.mpr hnonneg, ?_⟩
  rw [val, div_le_one (by positivity)]
  rw [hone] at hle
  exact_mod_cast hle

end Sys2Proof.Machine

namespace Sys2Proof.Proofs
open Machine

/-- Settles O56: each primitive packs a sign and a `roundUnits` of its exact magnitude. -/
theorem arithmeticRoundsOnce : Obligations.ArithmeticRoundsOnce := by
  refine ⟨fun a b ha hb => ⟨add32_roundsTo ha hb, sub32_roundsTo ha hb, mul32_roundsTo ha hb,
    div32_roundsTo ha hb⟩, fun a => sqrt32_roundsTo, i2f32_roundsTo, fun a b h => ?_, fun a h => ?_⟩
  · rcases h with h | h <;> simp [add32, sub32, mul32, div32, h, nan32]
  · simp [sqrt32, frac32, sub32, add32, h, nan32]

/-- Settles O58: `floor32` is exact, and `frac32` rounds the exact fraction. -/
theorem floorAndFracAreExact : Obligations.FloorAndFracAreExact :=
  fun _ ha => ⟨floor32_isFloor ha, frac32_of_nonneg ha, fun _ => frac32_mem_unit ha⟩

end Sys2Proof.Proofs
end

section
/-!
EXP2_32 (R9): the exponential series in fixed point stays within `fixError` of the real one, so what
`roundBoth` decides is 2^a rounded correctly.
-/
namespace Sys2Proof.Machine

/-! ### What both ends of an error interval decide -/

/-- Where `roundBoth` decides, both ends have the sign of v and round to the same magnitude. -/
theorem roundBoth_eq_some {v : Int} {den : Nat} {w : Word} (h : roundBoth v den = some w) :
    fixError < v.natAbs ∧ ∃ p, w = packSign (decide (v < 0)) p ∧
      roundUnits (v.natAbs - fixError) den = p ∧ roundUnits (v.natAbs + fixError) den = p := by
  unfold roundBoth at h
  split at h
  · cases h
  · rename_i hbig
    have hbig : fixError < v.natAbs := not_le.mp hbig
    dsimp only at h
    split at h
    · rename_i hends
      obtain rfl : roundSigned (v - fixError) den = w := Option.some.inj h
      have h31 : ∀ n, roundUnits n den < 2 ^ 31 := fun n =>
        (roundUnits_le_infMag n den).trans_lt infMag_lt
      obtain ⟨-, hmag⟩ := packSign_injective (h31 _) (h31 _) hends
      rcases lt_or_ge v 0 with hneg | hpos
      · rw [show (v - fixError).natAbs = v.natAbs + fixError by omega,
          show (v + fixError).natAbs = v.natAbs - fixError by omega] at hmag
        refine ⟨hbig, roundUnits (v.natAbs + fixError) den, ?_, hmag.symm, rfl⟩
        have hsign : v - fixError < 0 ↔ v < 0 := by omega
        simp only [roundSigned, hsign, show (v - fixError).natAbs = v.natAbs + fixError by omega]
      · rw [show (v - fixError).natAbs = v.natAbs - fixError by omega,
          show (v + fixError).natAbs = v.natAbs + fixError by omega] at hmag
        refine ⟨hbig, roundUnits (v.natAbs - fixError) den, ?_, rfl, hmag.symm⟩
        have hsign : v - fixError < 0 ↔ v < 0 := by omega
        simp only [roundSigned, hsign, show (v - fixError).natAbs = v.natAbs - fixError by omega]
    · cases h

/-- What `roundBoth` decides is the rounding of every real within `fixError` of v. -/
theorem roundBoth_roundsTo {v : Int} {den : Nat} {w : Word} {z : ℝ} (hden : 0 < den)
    (h : roundBoth v den = some w) (hz : |z - v| ≤ fixError) : RoundsTo (z / den / 2 ^ 149) w := by
  obtain ⟨hbig, p, rfl, hlow, hhigh⟩ := roundBoth_eq_some h
  have hv := intCast_eq_signed v
  have hbigR : (fixError : ℝ) < v.natAbs := by exact_mod_cast hbig
  generalize decide (v < 0) = neg at *
  obtain ⟨y, hy, rfl⟩ : ∃ y : ℝ, |y - v.natAbs| ≤ fixError ∧ z = signed neg y := by
    refine ⟨signed neg z, ?_, (signed_signed_self neg z).symm⟩
    rwa [hv, ← abs_signed_sub_signed neg, signed_signed_self] at hz
  obtain ⟨hy1, hy2⟩ := abs_le.mp hy
  have hdenR : (0 : ℝ) < den := by exact_mod_cast hden
  rw [signed_div_right]
  refine RoundsMag.roundsTo (RoundsMag.convex (hlow ▸ roundsMag_roundUnits _ hden)
    (hhigh ▸ roundsMag_roundUnits _ hden) ?_ ?_) (div_nonneg (by linarith) hdenR.le) neg
  · rw [Nat.cast_sub hbig.le]; gcongr; linarith
  · rw [Nat.cast_add]; gcongr; linarith

/-! ### Fixed-point division -/

/-- The scale of the fixed-point values, 2^320, in factors that are evaluated. -/
theorem two_pow_fixBits : (2 : ℝ) ^ fixBits = 2 ^ 171 * 2 ^ 149 := by
  rw [← pow_add]; rfl

/-- A rounded-down division is at most 1 below the exact one. -/
theorem abs_div_sub_le_one (n : Nat) {d : Nat} (hd : 0 < d) :
    |((n / d : Nat) : ℝ) - (n : ℝ) / d| ≤ 1 := by
  have hdR : (0 : ℝ) < d := by exact_mod_cast hd
  have h1 : ((n / d : Nat) : ℝ) ≤ n / d := Nat.cast_div_le
  have h2 : (n : ℝ) / d < (n / d : Nat) + 1 := by
    rw [div_lt_iff₀ hdR]; exact_mod_cast Nat.lt_mul_of_div_lt (Nat.lt_succ_self _) hd
  exact abs_le.mpr ⟨by linarith, by linarith⟩

/-! ### The exponential series -/

/-- From its j-th term on, the fixed-point exponential series follows the real one: each term is off by at
most 4 units when x <= 3/4. -/
theorem abs_expSeries_sub_le {y : Nat} {x : ℝ} (hx : x = y / 2 ^ fixBits) (hx1 : x ≤ 3 / 4)
    (n j t : Nat) (ht : |(t : ℝ) - 2 ^ fixBits * (x ^ j / j.factorial)| ≤ 4) :
    |(expSeries y n (j + 1) t : ℝ) -
      2 ^ fixBits * ∑ m ∈ Finset.range n, x ^ (j + m) / (j + m).factorial| ≤ 4 * n := by
  induction n generalizing j t with
  | zero => simp [expSeries]
  | succ n ih =>
    have hx0 : 0 ≤ x := by rw [hx]; positivity
    have hB : (0 : ℝ) < 2 ^ fixBits := by positivity
    have hnext : |((t * y / 2 ^ fixBits / (j + 1) : Nat) : ℝ) -
        2 ^ fixBits * (x ^ (j + 1) / (j + 1).factorial)| ≤ 4 := by
      rw [Nat.div_div_eq_div_mul]
      have hfloor := abs_div_sub_le_one (t * y) (d := 2 ^ fixBits * (j + 1)) (by positivity)
      have hterm : ((t * y : Nat) : ℝ) / (2 ^ fixBits * (j + 1) : Nat) -
          2 ^ fixBits * (x ^ (j + 1) / (j + 1).factorial) =
          (t - 2 ^ fixBits * (x ^ j / j.factorial)) * (x / (j + 1)) := by
        rw [Nat.factorial_succ, pow_succ]
        push_cast
        have hy : (y : ℝ) = x * 2 ^ fixBits := by rw [hx]; field_simp
        rw [hy]; field_simp
      have hratio : x / (j + 1) ≤ 3 / 4 := by
        refine (div_le_self hx0 ?_).trans hx1
        have : (0 : ℝ) ≤ j := Nat.cast_nonneg j
        linarith
      calc _ ≤ 1 + |((t * y : Nat) : ℝ) / (2 ^ fixBits * (j + 1) : Nat) -
              2 ^ fixBits * (x ^ (j + 1) / (j + 1).factorial)| :=
            (abs_sub_le _ _ _).trans (by gcongr)
        _ ≤ 1 + 4 * (3 / 4) := by
            rw [hterm, abs_mul, abs_of_nonneg (by positivity : 0 ≤ x / (j + 1))]; gcongr
        _ = 4 := by norm_num
    rw [Finset.sum_range_succ', expSeries]
    have hrest := ih (j + 1) _ hnext
    have hshift : ∀ m, j + 1 + m = j + (m + 1) := fun m => by omega
    simp only [hshift] at hrest
    calc _ = |((t : ℝ) - 2 ^ fixBits * (x ^ j / j.factorial)) + ((expSeries y n (j + 1 + 1)
            (t * y / 2 ^ fixBits / (j + 1)) : ℝ) -
              2 ^ fixBits * ∑ m ∈ Finset.range n, x ^ (j + (m + 1)) / (j + (m + 1)).factorial)| := by
          congr 1; push_cast; ring_nf
      _ ≤ 4 + 4 * n := (abs_add_le _ _).trans (add_le_add ht hrest)
      _ = 4 * (n + 1 : Nat) := by push_cast; ring

/-- 80 terms of the fixed-point series give the real exponential within 321 units. -/
theorem abs_expSeries_sub_exp_le {y : Nat} (hy : (y : ℝ) / 2 ^ fixBits ≤ 3 / 4) :
    |(expSeries y 80 1 (2 ^ fixBits) : ℝ) - 2 ^ fixBits * Real.exp (y / 2 ^ fixBits)| ≤ 321 := by
  set x : ℝ := y / 2 ^ fixBits with hx
  have hx0 : 0 ≤ x := by positivity
  have hseries : |(expSeries y 80 1 (2 ^ fixBits) : ℝ) -
      2 ^ fixBits * ∑ m ∈ Finset.range 80, x ^ m / m.factorial| ≤ 4 * 80 := by
    have h := abs_expSeries_sub_le hx hy 80 0 (2 ^ fixBits) (by simp)
    simpa only [zero_add, Nat.cast_ofNat] using h
  have htail : |2 ^ fixBits * ∑ m ∈ Finset.range 80, x ^ m / m.factorial -
      2 ^ fixBits * Real.exp x| ≤ 1 := by
    have hbound := Real.exp_bound (x := x) (by rw [abs_of_nonneg hx0]; linarith)
      (n := 80) (by norm_num)
    rw [abs_sub_comm, abs_of_nonneg hx0] at hbound
    rw [← mul_sub, abs_mul, abs_of_pos (by positivity : (0 : ℝ) < 2 ^ fixBits), two_pow_fixBits]
    calc _ ≤ (2 : ℝ) ^ 171 * 2 ^ 149 *
            ((3 / 4) ^ 80 * ((80 : Nat).succ / ((80 : Nat).factorial * (80 : Nat)))) := by
          refine mul_le_mul_of_nonneg_left (hbound.trans ?_) (by positivity)
          gcongr
      _ ≤ 1 := by norm_num [Nat.factorial]
  calc _ ≤ 4 * 80 + 1 := (abs_sub_le _ _ _).trans (add_le_add hseries htail)
    _ = 321 := by norm_num

/-! ### The fixed-point ln 2 -/

theorem sub_le_exp_sub_exp {a b : ℝ} (hb : 0 ≤ b) (hba : b ≤ a) : a - b ≤ Real.exp a - Real.exp b := by
  have h1 := Real.add_one_le_exp (a - b)
  have h2 : Real.exp b * Real.exp (a - b) = Real.exp a := by rw [← Real.exp_add]; congr 1; ring
  have h3 := Real.one_le_exp hb
  nlinarith

/-- From 0 up `exp` separates reals at least as far as they are apart. -/
theorem abs_sub_le_abs_exp_sub_exp {a b : ℝ} (ha : 0 ≤ a) (hb : 0 ≤ b) :
    |a - b| ≤ |Real.exp a - Real.exp b| := by
  rcases le_total b a with h | h
  · rw [abs_of_nonneg (sub_nonneg.mpr h)]
    exact (sub_le_exp_sub_exp hb h).trans (le_abs_self _)
  · rw [abs_sub_comm, abs_sub_comm (Real.exp a), abs_of_nonneg (sub_nonneg.mpr h)]
    exact (sub_le_exp_sub_exp ha h).trans (le_abs_self _)

theorem exp_sub_exp_le {a b : ℝ} (ha : a ≤ 1) (hba : b ≤ a) :
    Real.exp a - Real.exp b ≤ 3 * (a - b) := by
  have h1 := Real.add_one_le_exp (b - a)
  have h2 : Real.exp a * Real.exp (b - a) = Real.exp b := by rw [← Real.exp_add]; congr 1; ring
  have h3 : Real.exp a ≤ 3 :=
    (Real.exp_le_exp.mpr ha).trans (Real.exp_one_lt_d9.le.trans (by norm_num))
  have h4 := Real.exp_pos a
  nlinarith

/-- Up to 1 `exp` triples distances at most. -/
theorem abs_exp_sub_exp_le {a b : ℝ} (ha : a ≤ 1) (hb : b ≤ 1) :
    |Real.exp a - Real.exp b| ≤ 3 * |a - b| := by
  rcases le_total b a with h | h
  · rw [abs_of_nonneg (sub_nonneg.mpr (Real.exp_le_exp.mpr h)), abs_of_nonneg (sub_nonneg.mpr h)]
    exact exp_sub_exp_le ha h
  · rw [abs_sub_comm, abs_sub_comm a, abs_of_nonneg (sub_nonneg.mpr (Real.exp_le_exp.mpr h)),
      abs_of_nonneg (sub_nonneg.mpr h)]
    exact exp_sub_exp_le hb h

theorem two_pow_330 : (2 : ℝ) ^ 330 = 2 ^ 10 * 2 ^ fixBits := pow_add 2 10 fixBits

/-- The fixed-point exponential of `ln2Fix` is 2, so `ln2Fix` is ln 2. -/
theorem abs_ln2Fix_sub_log_two_le : |(ln2Fix : ℝ) / 2 ^ 330 - Real.log 2| ≤ 354 / 2 ^ fixBits := by
  have hB : (0 : ℝ) < 2 ^ fixBits := by positivity
  set y := ln2Fix / 2 ^ 10 with hy
  have hsmall : (y : ℝ) / 2 ^ fixBits ≤ 3 / 4 := by
    rw [div_le_div_iff₀ hB (by norm_num)]
    exact_mod_cast (by decide +kernel : ln2Fix / 2 ^ 10 * 4 ≤ 3 * 2 ^ fixBits)
  have hcomputed : |(expSeries y 80 1 (2 ^ fixBits) : ℝ) - 2 ^ fixBits * 2| ≤ 32 := by
    have h : 2 ^ fixBits * 2 = expSeries y 80 1 (2 ^ fixBits) + 32 := by
      rw [hy]; decide +kernel
    have hR : (2 : ℝ) ^ fixBits * 2 = expSeries y 80 1 (2 ^ fixBits) + 32 := by exact_mod_cast h
    rw [hR, sub_add_cancel_left, abs_neg, abs_of_pos (by norm_num)]
  have hexp : |Real.exp (y / 2 ^ fixBits) - 2| ≤ 353 / 2 ^ fixBits := by
    rw [le_div_iff₀ hB, ← abs_of_pos hB, ← abs_mul, abs_of_pos hB, sub_mul, mul_comm, mul_comm 2]
    calc _ ≤ (321 : ℝ) + 32 := by
          refine (abs_sub_le _ _ _).trans (add_le_add ?_ hcomputed)
          rw [abs_sub_comm]
          exact abs_expSeries_sub_exp_le hsmall
      _ = 353 := by norm_num
  have hlog : |(y : ℝ) / 2 ^ fixBits - Real.log 2| ≤ 353 / 2 ^ fixBits := by
    refine (abs_sub_le_abs_exp_sub_exp (by positivity) (Real.log_nonneg one_le_two)).trans ?_
    rwa [Real.exp_log two_pos]
  have hfloor : |(ln2Fix : ℝ) / 2 ^ 330 - y / 2 ^ fixBits| ≤ 1 / 2 ^ fixBits := by
    have h := abs_div_sub_le_one ln2Fix (d := 2 ^ 10) (by norm_num)
    rw [two_pow_330, ← div_div, ← sub_div, abs_div, abs_of_pos hB, abs_sub_comm]
    rw [Nat.cast_pow, Nat.cast_ofNat] at h
    gcongr
  calc _ ≤ 1 / 2 ^ fixBits + 353 / 2 ^ fixBits := (abs_sub_le _ _ _).trans (add_le_add hfloor hlog)
    _ = 354 / 2 ^ fixBits := by ring

/-! ### EXP2_32 -/

/-- `exp2Fix` is the real power of 2, within `fixError`. -/
theorem abs_exp2Fix_sub_le {f : Nat} (hf : f < 2 ^ fixBits) :
    |2 ^ fixBits * (2 : ℝ) ^ ((f : ℝ) / 2 ^ fixBits) - exp2Fix f| ≤ fixError := by
  have hB : (0 : ℝ) < 2 ^ fixBits := by positivity
  set x : ℝ := (f : ℝ) / 2 ^ fixBits with hx
  have hx0 : 0 ≤ x := by positivity
  have hx1 : x ≤ 1 := by
    rw [hx, div_le_one hB]; exact_mod_cast hf.le
  set y := f * ln2Fix / 2 ^ 330 with hy
  have hsmall : (y : ℝ) / 2 ^ fixBits ≤ 3 / 4 := by
    have hle : y ≤ 2 ^ fixBits * ln2Fix / 2 ^ 330 :=
      Nat.div_le_div_right (Nat.mul_le_mul_right _ hf.le)
    have htop : 2 ^ fixBits * ln2Fix / 2 ^ 330 * 4 ≤ 3 * 2 ^ fixBits := by decide +kernel
    rw [div_le_div_iff₀ hB (by norm_num)]
    exact_mod_cast (Nat.mul_le_mul_right 4 hle).trans htop
  have harg : |(y : ℝ) / 2 ^ fixBits - Real.log 2 * x| ≤ 355 / 2 ^ fixBits := by
    have hfloor := abs_div_sub_le_one (f * ln2Fix) (d := 2 ^ 330) (by positivity)
    have hscaled : |(y : ℝ) / 2 ^ fixBits - x * (ln2Fix / 2 ^ 330)| ≤ 1 / 2 ^ fixBits := by
      rw [hx, div_mul_eq_mul_div, ← sub_div, abs_div, abs_of_pos hB]
      gcongr
      rwa [Nat.cast_mul, Nat.cast_pow, Nat.cast_ofNat, mul_div_assoc] at hfloor
    have hconst : |x * (ln2Fix / 2 ^ 330) - Real.log 2 * x| ≤ 354 / 2 ^ fixBits := by
      rw [mul_comm (Real.log 2), ← mul_sub, abs_mul, abs_of_nonneg hx0]
      exact (mul_le_of_le_one_left (abs_nonneg _) hx1).trans abs_ln2Fix_sub_log_two_le
    calc _ ≤ 1 / 2 ^ fixBits + 354 / 2 ^ fixBits :=
          (abs_sub_le _ _ _).trans (add_le_add hscaled hconst)
      _ = 355 / 2 ^ fixBits := by ring
  have hexp : |Real.exp (y / 2 ^ fixBits) - 2 ^ x| ≤ 3 * (355 / 2 ^ fixBits) := by
    rw [Real.rpow_def_of_pos two_pos]
    refine (abs_exp_sub_exp_le (by linarith) ?_).trans (by gcongr)
    have := Real.log_two_lt_d9
    have := Real.log_nonneg one_le_two
    nlinarith
  have hseries := abs_expSeries_sub_exp_le hsmall
  have hexp' : |2 ^ fixBits * Real.exp (y / 2 ^ fixBits) - 2 ^ fixBits * 2 ^ x| ≤ 1065 := by
    rw [← mul_sub, abs_mul, abs_of_pos hB]
    calc _ ≤ (2 : ℝ) ^ fixBits * (3 * (355 / 2 ^ fixBits)) := by gcongr
      _ = 1065 := by field_simp; norm_num
  rw [abs_sub_comm]
  calc _ ≤ (321 : ℝ) + 1065 := (abs_sub_le _ _ _).trans (add_le_add hseries hexp')
    _ ≤ fixError := by rw [fixError]; norm_num

/-- A value split as EXP2_32 splits it: the whole part and the rest in units of 2^-149. -/
theorem val_eq_whole_add_part (a : Word) : (val a : ℝ) = exp2Whole a + exp2Part a / 2 ^ 149 := by
  have hpart : ((exp2Part a : Nat) : Int) = exactUnits a % 2 ^ 149 :=
    Int.toNat_of_nonneg (Int.emod_nonneg _ (by norm_num))
  have hunits : exactUnits a = exp2Whole a * 2 ^ 149 + exp2Part a := by
    rw [hpart, exp2Whole]; omega
  have hR : (exactUnits a : ℝ) = exp2Whole a * 2 ^ 149 + exp2Part a := by
    rw [hunits, Int.cast_add, Int.cast_mul, Int.cast_pow, Int.cast_ofNat, Int.cast_natCast]
  have hval : (val a : ℝ) = exactUnits a / 2 ^ 149 := by simp [val]
  rw [hval, hR]
  field_simp

theorem exp2Part_lt (a : Word) : exp2Part a < 2 ^ 149 := by
  unfold exp2Part; omega

/-- `exp2Scaled` is 2^(a - floor(a)), within `fixError`. -/
theorem abs_exp2Scaled_sub_le (a : Word) :
    |2 ^ fixBits * (2 : ℝ) ^ ((exp2Part a : ℝ) / 2 ^ 149) - exp2Scaled a| ≤ (fixError : ℝ) := by
  have hf : exp2Part a * 2 ^ 171 < 2 ^ fixBits := by
    rw [show fixBits = 149 + 171 from rfl, pow_add]
    exact Nat.mul_lt_mul_of_pos_right (exp2Part_lt a) (by positivity)
  have h := abs_exp2Fix_sub_le hf
  rwa [Nat.cast_mul, Nat.cast_pow, Nat.cast_ofNat, two_pow_fixBits, mul_comm (exp2Part a : ℝ),
    mul_div_mul_left _ _ (by positivity), ← two_pow_fixBits] at h

/-- From 2^128 up a real rounds to the infinity. -/
theorem roundsTo_infinity {x : ℝ} (h : 2 ^ 128 ≤ x) : RoundsTo x (packSign false infMag) := by
  have h0 : 0 ≤ x := (by positivity : (0 : ℝ) ≤ 2 ^ 128).trans h
  unfold RoundsTo
  rw [if_neg, decide_eq_false (not_lt.mpr h0)]
  rw [abs_of_nonneg h0, not_lt]
  exact (sub_le_self _ (by positivity)).trans h

/-- A nonnegative real whose magnitude in units rounds to p. -/
theorem RoundsMag.roundsTo_of_nonneg {x : ℝ} {p : Nat} (h : RoundsMag (x * 2 ^ 149) p) (hx : 0 ≤ x) :
    RoundsTo x (packSign false p) := by
  have h' := h.roundsTo (by positivity) false
  rwa [signed_div_right, mul_div_cancel_right₀ _ (by positivity)] at h'

/-- Up to half of the smallest subnormal a nonnegative real rounds to 0. -/
theorem roundsTo_zero {x : ℝ} (h0 : 0 ≤ x) (h : x ≤ 2 ^ (-150 : ℤ)) :
    RoundsTo x (packSign false 0) := by
  refine (roundsMag_zero ?_).roundsTo_of_nonneg h0
  calc x * 2 ^ 149 ≤ 2 ^ (-150 : ℤ) * 2 ^ 149 := by gcongr
    _ = 1 / 2 := by norm_num

/-- `exp2Int` rounds the whole powers of 2. -/
theorem exp2Int_roundsTo (n : Int) : RoundsTo ((2 : ℝ) ^ n) (packSign false (exp2Int n)) := by
  unfold exp2Int
  split_ifs with hbig hsmall hunits
  · have hle : (2 : ℝ) ^ (128 : ℤ) ≤ 2 ^ n := zpow_le_zpow_right₀ one_le_two hbig
    rw [zpow_ofNat] at hle
    exact roundsTo_infinity hle
  · exact roundsTo_zero (by positivity) (zpow_le_zpow_right₀ one_le_two (by omega))
  · refine RoundsMag.roundsTo_of_nonneg ?_ (by positivity)
    have h := roundsMag_roundUnits (2 ^ (n + 149).toNat) one_pos
    rwa [Nat.cast_pow, Nat.cast_one, div_one, Nat.cast_ofNat, ← zpow_natCast,
      Int.toNat_of_nonneg (by omega), zpow_add₀ two_ne_zero, zpow_ofNat] at h
  · obtain rfl : n = -150 := by omega
    refine RoundsMag.roundsTo_of_nonneg ?_ (by positivity)
    have h := roundsMag_roundUnits 1 two_pos
    convert h using 1
    norm_num

/-- Between the clamps, `roundBoth` decides the rounding of 2^a. -/
theorem exp2_roundBoth_roundsTo {a w : Word} (hhigh : exp2Whole a < 128)
    (h : roundBoth (exp2Scaled a) (exp2Den a) = some w) :
    RoundsTo ((2 : ℝ) ^ (val a : ℝ)) w := by
  have hround := roundBoth_roundsTo (by unfold exp2Den; positivity) h (abs_exp2Scaled_sub_le a)
  convert hround using 1
  have hden : ((exp2Den a : Nat) : ℝ) = 2 ^ 171 / 2 ^ exp2Whole a := by
    rw [exp2Den, Nat.cast_pow, Nat.cast_ofNat, ← zpow_natCast, Int.toNat_of_nonneg (by omega),
      zpow_sub₀ two_ne_zero, zpow_ofNat]
  rw [val_eq_whole_add_part, Real.rpow_add two_pos, Real.rpow_intCast, hden, two_pow_fixBits]
  field_simp

theorem exp2Rounded_roundsTo {a w : Word} (h : exp2Rounded a = some w) :
    RoundsTo ((2 : ℝ) ^ (val a : ℝ)) w := by
  have hval := val_eq_whole_add_part a
  have hpart : (exp2Part a : ℝ) / 2 ^ 149 < 1 := by
    rw [div_lt_one (by positivity)]; exact_mod_cast exp2Part_lt a
  have hpart0 : (0 : ℝ) ≤ exp2Part a / 2 ^ 149 := by positivity
  unfold exp2Rounded at h
  split_ifs at h with hwhole hbig hsmall
  · obtain rfl := Option.some.inj h
    rw [hval, hwhole, Nat.cast_zero, zero_div, add_zero, Real.rpow_intCast]
    exact exp2Int_roundsTo _
  · obtain rfl := Option.some.inj h
    refine roundsTo_infinity ?_
    rw [← Real.rpow_natCast]
    refine Real.rpow_le_rpow_of_exponent_le one_le_two ?_
    have : ((128 : Int) : ℝ) ≤ exp2Whole a := by exact_mod_cast hbig
    push_cast at this ⊢
    linarith
  · obtain rfl := Option.some.inj h
    refine roundsTo_zero (by positivity) ?_
    rw [← Real.rpow_intCast]
    refine Real.rpow_le_rpow_of_exponent_le one_le_two ?_
    have : (exp2Whole a : ℝ) + 1 ≤ (-150 : Int) := by exact_mod_cast hsmall
    linarith
  · exact exp2_roundBoth_roundsTo (not_le.mp hbig) h

end Sys2Proof.Machine

namespace Sys2Proof.Proofs
open Machine

/-- Settles O59: the fixed-point exponential stays within `fixError`, so `roundBoth` decides rightly. -/
theorem defaultExp2RoundsCorrectly : Obligations.DefaultExp2RoundsCorrectly := by
  intro a w ha h
  refine ⟨?_, exp2Rounded_roundsTo h⟩
  simp [exp2, isNaN_of_isFinite ha, isInf_of_isFinite ha, h]

end Sys2Proof.Proofs
end

section
/-!
SIN32 (R9): the alternating series in fixed point and the reduction by pi/2 stay within `fixError` of the
real sine, so what `roundBoth` decides is sin(a) rounded correctly.
-/
namespace Sys2Proof.Machine

/-! ### Taylor sums of sine and cosine -/

/-- n terms of alternating sign of the exponential series, from the term of degree i on and two degrees
apart: the Taylor sums of cosine (i = 0) and sine (i = 1), and the sum `trigSeries` approximates. -/
def alternatingSum {K : Type} [Field K] (x : K) (i n : Nat) : K :=
  ∑ m ∈ Finset.range n, (-1) ^ m * (x ^ (i + 2 * m) / (i + 2 * m).factorial)

theorem alternatingSum_succ {K : Type} [Field K] (x : K) (i n : Nat) :
    alternatingSum x i (n + 1) = x ^ i / i.factorial - alternatingSum x (i + 2) n := by
  have hshift : ∀ m, i + 2 * (m + 1) = i + 2 + 2 * m := fun m => by omega
  simp only [alternatingSum, Finset.sum_range_succ', hshift, pow_succ, mul_neg_one, neg_mul,
    Finset.sum_neg_distrib]
  simp
  ring

theorem alternatingSum_cast (q : ℚ) (i n : Nat) :
    ((alternatingSum q i n : ℚ) : ℝ) = alternatingSum (q : ℝ) i n := by
  simp [alternatingSum]

/-- The even and odd terms of the exponential series of ix. -/
theorem sum_exp_mul_I (x : ℝ) (n : Nat) :
    ∑ m ∈ Finset.range (2 * n), ((x : ℂ) * Complex.I) ^ m / m.factorial =
      (alternatingSum x 0 n : ℝ) + (alternatingSum x 1 n : ℝ) * Complex.I := by
  induction n with
  | zero => simp [alternatingSum]
  | succ n ih =>
    have heven : ((x : ℂ) * Complex.I) ^ (2 * n) = (-1) ^ n * (x : ℂ) ^ (2 * n) := by
      rw [mul_pow, pow_mul Complex.I, Complex.I_sq, mul_comm]
    rw [show 2 * (n + 1) = 2 * n + 1 + 1 by ring, Finset.sum_range_succ, Finset.sum_range_succ, ih]
    simp only [alternatingSum, Finset.sum_range_succ, pow_succ, heven, zero_add, Nat.add_comm 1]
    push_cast
    ring

/-- Both Taylor sums at once: their error is bounded by twice the first term left out. -/
theorem norm_trig_sub_alternatingSum_le {x : ℝ} {n : Nat} (hx : |x| ≤ n) :
    |Real.cos x - alternatingSum x 0 n| ≤ |x| ^ (2 * n) / (2 * n).factorial * 2 ∧
      |Real.sin x - alternatingSum x 1 n| ≤ |x| ^ (2 * n) / (2 * n).factorial * 2 := by
  have hnorm : ‖(x : ℂ) * Complex.I‖ = |x| := by simp
  have hbound := Complex.exp_bound' (x := (x : ℂ) * Complex.I) (n := 2 * n) (by
    rw [hnorm, div_le_iff₀ (by positivity)]
    push_cast
    linarith)
  rw [hnorm, sum_exp_mul_I, Complex.exp_mul_I, ← Complex.ofReal_cos, ← Complex.ofReal_sin] at hbound
  refine ⟨(le_of_eq ?_).trans ((Complex.abs_re_le_norm _).trans hbound),
    (le_of_eq ?_).trans ((Complex.abs_im_le_norm _).trans hbound)⟩
  · simp [-Complex.ofReal_cos, -Complex.ofReal_sin]
  · simp [-Complex.ofReal_cos, -Complex.ofReal_sin]

/-! ### The alternating series in fixed point -/

/-- A term of the exponential series at an argument up to 8/5 is at most 8. -/
theorem pow_div_factorial_le_eight {x : ℝ} (hx0 : 0 ≤ x) (hx : x ≤ 8 / 5) (i : Nat) :
    x ^ i / i.factorial ≤ 8 := by
  have hexp : Real.exp 2 = Real.exp 1 * Real.exp 1 := by rw [← Real.exp_add]; norm_num
  have h1 := Real.exp_one_lt_d9
  have h0 := Real.exp_pos 1
  calc x ^ i / i.factorial ≤ Real.exp x := Real.pow_div_factorial_le_exp x hx0 i
    _ ≤ Real.exp 2 := Real.exp_le_exp.mpr (by linarith)
    _ ≤ 8 := by rw [hexp]; nlinarith

section
variable {y : Nat} {x : ℝ} (hx0 : 0 ≤ x) (hx : x ≤ 8 / 5)
  (hy1 : (y : ℝ) ≤ 2 ^ fixBits * x ^ 2) (hy2 : 2 ^ fixBits * x ^ 2 ≤ y + 1)
include hx0 hx hy1 hy2

/-- The next term of the fixed-point series, with y the squared argument rounded down. -/
theorem abs_trigTerm_sub_le {i t : Nat} (ht : |(t : ℝ) - 2 ^ fixBits * (x ^ i / i.factorial)| ≤ 4 * i) :
    |((t * y / 2 ^ fixBits / ((i + 1) * (i + 2)) : Nat) : ℝ) -
      2 ^ fixBits * (x ^ (i + 2) / (i + 2).factorial)| ≤ 5 := by
  have hB : (0 : ℝ) < 2 ^ fixBits := by positivity
  have hc : (0 : ℝ) < (i + 1) * (i + 2) := by positivity
  rw [Nat.div_div_eq_div_mul]
  have hfloor := abs_div_sub_le_one (t * y) (d := 2 ^ fixBits * ((i + 1) * (i + 2))) (by positivity)
  have hexact : ((t * y : Nat) : ℝ) / (2 ^ fixBits * ((i + 1) * (i + 2)) : Nat) -
      2 ^ fixBits * (x ^ (i + 2) / (i + 2).factorial) =
      ((t - 2 ^ fixBits * (x ^ i / i.factorial)) * (y / 2 ^ fixBits) +
        x ^ i / i.factorial * (y - 2 ^ fixBits * x ^ 2)) / ((i + 1) * (i + 2)) := by
    rw [Nat.factorial_succ, Nat.factorial_succ]
    push_cast
    field_simp
    ring
  have hy : (y : ℝ) / 2 ^ fixBits ≤ 64 / 25 := by
    have hx2 : x ^ 2 ≤ 64 / 25 := by nlinarith
    rw [div_le_iff₀' hB]
    exact hy1.trans (mul_le_mul_of_nonneg_left hx2 hB.le)
  have hterm0 : 0 ≤ x ^ i / i.factorial := by positivity
  have hdrift : |(t - 2 ^ fixBits * (x ^ i / i.factorial)) * (y / 2 ^ fixBits)| ≤ 4 * i * (64 / 25) := by
    rw [abs_mul, abs_of_nonneg (by positivity : (0 : ℝ) ≤ y / 2 ^ fixBits)]
    gcongr
  have hsquare : |x ^ i / i.factorial * (y - 2 ^ fixBits * x ^ 2)| ≤ 8 * 1 := by
    rw [abs_mul, abs_of_nonneg hterm0]
    exact mul_le_mul (pow_div_factorial_le_eight hx0 hx i)
      (abs_le.mpr ⟨by linarith, by linarith⟩) (abs_nonneg _) (by norm_num)
  have hi : (0 : ℝ) ≤ i := Nat.cast_nonneg i
  refine (abs_sub_le _ _ _).trans ((add_le_add hfloor (?_ : _ ≤ (4 : ℝ))).trans (by norm_num))
  rw [hexact, abs_div, abs_of_pos hc, div_le_iff₀ hc]
  exact (abs_add_le _ _).trans ((add_le_add hdrift hsquare).trans (by nlinarith))

/-- From degree i on, the fixed-point series follows the real one. -/
theorem abs_trigSeries_sub_le (n i t : Nat)
    (ht : |(t : ℝ) - 2 ^ fixBits * (x ^ i / i.factorial)| ≤ 4 * i) :
    |(trigSeries y n i t : ℝ) - 2 ^ fixBits * alternatingSum x i n| ≤ 4 * n * (i + 2 * n) := by
  induction n generalizing i t with
  | zero => simp [trigSeries, alternatingSum]
  | succ n ih =>
    have hrest := ih (i + 2) _ ((abs_trigTerm_sub_le hx0 hx hy1 hy2 ht).trans
      (by push_cast; linarith [(Nat.cast_nonneg i : (0 : ℝ) ≤ i)]))
    rw [alternatingSum_succ, trigSeries]
    calc _ = |((t : ℝ) - 2 ^ fixBits * (x ^ i / i.factorial)) - ((trigSeries y n (i + 2)
            (t * y / 2 ^ fixBits / ((i + 1) * (i + 2))) : ℝ) -
              2 ^ fixBits * alternatingSum x (i + 2) n)| := by
          congr 1; push_cast; ring
      _ ≤ 4 * i + 4 * n * ((i + 2 : Nat) + 2 * n) := (abs_sub _ _).trans (add_le_add ht hrest)
      _ ≤ 4 * (n + 1 : Nat) * (i + 2 * (n + 1 : Nat)) := by push_cast; nlinarith

end

/-- r over the scale: the argument of `sinFix` and `cosFix`. -/
theorem abs_fixTrig_sub_le {r : Nat} (hr : (r : ℝ) / 2 ^ fixBits ≤ 8 / 5) :
    |(sinFix r : ℝ) - 2 ^ fixBits * Real.sin (r / 2 ^ fixBits)| ≤ 16400 ∧
      |(cosFix r : ℝ) - 2 ^ fixBits * Real.cos (r / 2 ^ fixBits)| ≤ 16400 := by
  have hB : (0 : ℝ) < 2 ^ fixBits := by positivity
  set x : ℝ := r / 2 ^ fixBits with hxdef
  have hx0 : 0 ≤ x := by positivity
  have hsquare : ((r * r : Nat) : ℝ) / (2 ^ fixBits : Nat) = 2 ^ fixBits * x ^ 2 := by
    rw [hxdef]; push_cast; field_simp
  have hfloor := abs_div_sub_le_one (r * r) (d := 2 ^ fixBits) (by positivity)
  rw [hsquare] at hfloor
  obtain ⟨hlow, -⟩ := abs_le.mp hfloor
  have hy1 : ((r * r / 2 ^ fixBits : Nat) : ℝ) ≤ 2 ^ fixBits * x ^ 2 := hsquare ▸ Nat.cast_div_le
  have hy2 : 2 ^ fixBits * x ^ 2 ≤ ((r * r / 2 ^ fixBits : Nat) : ℝ) + 1 := by linarith
  have hsin := abs_trigSeries_sub_le hx0 hr hy1 hy2 45 1 r (by rw [hxdef]; simp; field_simp; simp)
  have hcos := abs_trigSeries_sub_le hx0 hr hy1 hy2 45 0 (2 ^ fixBits) (by simp)
  have htail : ∀ u v : ℝ, |u - v| ≤ |x| ^ (2 * 45) / (2 * 45).factorial * 2 →
      |2 ^ fixBits * v - 2 ^ fixBits * u| ≤ 1 := by
    intro u v huv
    rw [← mul_sub, abs_mul, abs_of_pos hB, abs_sub_comm, two_pow_fixBits]
    rw [abs_of_nonneg hx0] at huv
    calc _ ≤ (2 : ℝ) ^ 171 * 2 ^ 149 * ((8 / 5) ^ (2 * 45) / (2 * 45).factorial * 2) := by
          refine mul_le_mul_of_nonneg_left (huv.trans ?_) (by positivity)
          gcongr
      _ ≤ 1 := by norm_num [Nat.factorial]
  obtain ⟨hcos', hsin'⟩ := norm_trig_sub_alternatingSum_le (x := x) (n := 45)
    (by rw [abs_of_nonneg hx0]; push_cast; linarith)
  refine ⟨(abs_sub_le _ _ _).trans ((add_le_add hsin (htail _ _ hsin')).trans ?_),
    (abs_sub_le _ _ _).trans ((add_le_add hcos (htail _ _ hcos')).trans ?_)⟩
  · norm_num
  · norm_num

/-! ### The fixed-point pi/2 and the reduction -/

/-- `halfPiFix` over its scale. -/
noncomputable def halfPiReal : ℝ := (halfPiFix : ℝ) / 2 ^ 480

/-- The Taylor sum of cosine at `halfPiFix`, evaluated exactly, is nearly 0. -/
theorem abs_alternatingSum_halfPiReal_le :
    |alternatingSum halfPiReal 0 60| ≤ 1 / (2 ^ 230 * 2 ^ 230) := by
  have hlow : -(1 / (2 ^ 230 * 2 ^ 230)) ≤ alternatingSum ((halfPiFix : ℚ) / 2 ^ 480) 0 60 := by
    unfold alternatingSum; decide +kernel
  have hhigh : alternatingSum ((halfPiFix : ℚ) / 2 ^ 480) 0 60 ≤ 1 / (2 ^ 230 * 2 ^ 230) := by
    unfold alternatingSum; decide +kernel
  have hcast := alternatingSum_cast ((halfPiFix : ℚ) / 2 ^ 480) 0 60
  rw [Rat.cast_div, Rat.cast_pow, Rat.cast_natCast, Rat.cast_ofNat] at hcast
  rw [halfPiReal, ← hcast, ← Rat.cast_abs]
  calc _ ≤ (((1 / (2 ^ 230 * 2 ^ 230) : ℚ)) : ℝ) := Rat.cast_le.mpr (abs_le.mpr ⟨hlow, hhigh⟩)
    _ = _ := by push_cast; rfl

theorem halfPiReal_nonneg : 0 ≤ halfPiReal := by unfold halfPiReal; positivity

theorem halfPiReal_le : halfPiReal ≤ 8 / 5 := by
  rw [halfPiReal, div_le_div_iff₀ (by positivity) (by norm_num)]
  exact_mod_cast (by decide +kernel : halfPiFix * 5 ≤ 8 * 2 ^ 480)

/-- The cosine of `halfPiFix` is nearly 0, so it is nearly pi/2. -/
theorem abs_halfPiReal_sub_le : |Real.pi / 2 - halfPiReal| ≤ 4 / (2 ^ 230 * 2 ^ 230) := by
  have h0 := halfPiReal_nonneg
  have h1 := halfPiReal_le
  have hpi := Real.pi_gt_three
  have hpi4 := Real.pi_le_four
  obtain ⟨htaylor, -⟩ := norm_trig_sub_alternatingSum_le (x := halfPiReal) (n := 60)
    (by rw [abs_of_nonneg h0]; push_cast; linarith)
  have htail : |halfPiReal| ^ (2 * 60) / (2 * 60).factorial * 2 ≤ 1 / (2 ^ 230 * 2 ^ 230) := by
    rw [abs_of_nonneg h0]
    calc _ ≤ ((8 / 5 : ℝ)) ^ (2 * 60) / (2 * 60).factorial * 2 := by gcongr
      _ ≤ _ := by norm_num [Nat.factorial]
  have hcos : |Real.cos halfPiReal| ≤ 2 / (2 ^ 230 * 2 ^ 230) := by
    have h := abs_add_le (Real.cos halfPiReal - alternatingSum halfPiReal 0 60)
      (alternatingSum halfPiReal 0 60)
    rw [sub_add_cancel] at h
    linarith [abs_alternatingSum_halfPiReal_le]
  have hjordan := Real.mul_abs_le_abs_sin (x := Real.pi / 2 - halfPiReal)
    (abs_le.mpr ⟨by linarith, by linarith⟩)
  rw [Real.sin_pi_div_two_sub, div_mul_eq_mul_div, div_le_iff₀ Real.pi_pos] at hjordan
  have hcos0 := abs_nonneg (Real.cos halfPiReal)
  nlinarith

theorem cast_eq_mul_div_add_mod (n d : Nat) : (n : ℝ) = d * (n / d : Nat) + (n % d : Nat) := by
  exact_mod_cast (Nat.div_add_mod n d).symm

/-- The sine after k quarter turns. -/
theorem sin_nat_mul_half_pi_add (k : Nat) (x : ℝ) :
    Real.sin (k * (Real.pi / 2) + x) =
      signed (decide (2 ≤ k % 4)) (if k % 2 = 0 then Real.sin x else Real.cos x) := by
  have hturns : (k : ℝ) * (Real.pi / 2) + x =
      x + (k % 4 : Nat) * (Real.pi / 2) + (k / 4 : Nat) * (2 * Real.pi) := by
    have hk := cast_eq_mul_div_add_mod k 4
    push_cast at hk
    linear_combination (Real.pi / 2) * hk
  have hodd : k % 2 = k % 4 % 2 := by omega
  have hlt : k % 4 < 4 := Nat.mod_lt _ (by norm_num)
  rw [hturns, Real.sin_add_nat_mul_two_pi, hodd]
  generalize k % 4 = c at *
  interval_cases c
  · simp [signed]
  · simp [signed, Real.sin_add_pi_div_two]
  · rw [show x + (2 : Nat) * (Real.pi / 2) = x + Real.pi by push_cast; ring]
    simp [signed, Real.sin_add_pi]
  · rw [show x + (3 : Nat) * (Real.pi / 2) = x + Real.pi / 2 + Real.pi by push_cast; ring]
    simp [signed, Real.sin_add_pi, Real.sin_add_pi_div_two]

/-- How often `halfPiFix` goes into a magnitude of u units. -/
def quarterTurns (u : Nat) : Nat := u * 2 ^ 331 / halfPiFix
/-- What is left of a magnitude of u units, over the scale 2^320. -/
def reducedArg (u : Nat) : Nat := u * 2 ^ 331 % halfPiFix / 2 ^ 160
/-- The magnitude of the sine, as `sinScaled` computes it from the reduced argument. -/
def reducedSine (u : Nat) : Int :=
  if quarterTurns u % 2 = 0 then sinFix (reducedArg u) else cosFix (reducedArg u)

theorem sinScaled_eq (a : Word) :
    sinScaled a = if signBit a != decide (2 ≤ quarterTurns (unitsOf (magBits a)) % 4)
      then -reducedSine (unitsOf (magBits a)) else reducedSine (unitsOf (magBits a)) := rfl

theorem reducedArg_le (u : Nat) : (reducedArg u : ℝ) / 2 ^ fixBits ≤ 8 / 5 := by
  have hlt : reducedArg u ≤ halfPiFix / 2 ^ 160 :=
    Nat.div_le_div_right (Nat.mod_lt _ (by decide +kernel)).le
  have htop : halfPiFix / 2 ^ 160 * 5 ≤ 8 * 2 ^ fixBits := by decide +kernel
  rw [div_le_div_iff₀ (by positivity) (by norm_num)]
  exact_mod_cast (Nat.mul_le_mul_right 5 hlt).trans htop

/-- The reduction by pi/2 is exact but for 2 units of 2^-320. -/
theorem abs_reducedArg_sub_le {u : Nat} (hu : u < 2 ^ 24 * 2 ^ 253) :
    |(reducedArg u : ℝ) / 2 ^ fixBits - ((u : ℝ) / 2 ^ 149 - quarterTurns u * (Real.pi / 2))| ≤
      2 / 2 ^ fixBits := by
  have hB : (0 : ℝ) < 2 ^ fixBits := by positivity
  have hsplit := cast_eq_mul_div_add_mod (u * 2 ^ 331) halfPiFix
  have hfloor := abs_div_sub_le_one (u * 2 ^ 331 % halfPiFix) (d := 2 ^ 160) (by positivity)
  have hturns : (quarterTurns u : ℝ) ≤ 2 ^ 128 := by
    have htop : 2 ^ 24 * 2 ^ 253 * 2 ^ 331 ≤ halfPiFix * 2 ^ 128 := by decide +kernel
    exact_mod_cast Nat.div_le_of_le_mul ((Nat.mul_le_mul_right _ hu.le).trans htop)
  rw [← quarterTurns, Nat.cast_mul, Nat.cast_pow, Nat.cast_ofNat] at hsplit
  rw [← reducedArg, Nat.cast_pow, Nat.cast_ofNat] at hfloor
  generalize ((u * 2 ^ 331 % halfPiFix : Nat) : ℝ) = rest at *
  have hexact : (reducedArg u : ℝ) / 2 ^ fixBits -
      ((u : ℝ) / 2 ^ 149 - quarterTurns u * (Real.pi / 2)) =
      (reducedArg u - rest / 2 ^ 160) / 2 ^ fixBits +
        quarterTurns u * (Real.pi / 2 - halfPiReal) := by
    have h331 : (2 : ℝ) ^ 480 = 2 ^ 149 * 2 ^ 331 := pow_add 2 149 331
    have h320 : (2 : ℝ) ^ 480 = 2 ^ 160 * 2 ^ fixBits := pow_add 2 160 fixBits
    have hu149 : (u : ℝ) / 2 ^ 149 = halfPiReal * quarterTurns u + rest / 2 ^ 160 / 2 ^ fixBits := by
      rw [← mul_div_mul_right _ _ (by positivity : (2 : ℝ) ^ 331 ≠ 0), hsplit, ← h331, halfPiReal,
        div_div, ← h320, add_div, mul_div_right_comm]
    rw [hu149]; ring
  have harg : |(reducedArg u - rest / 2 ^ 160) / 2 ^ fixBits| ≤ 1 / 2 ^ fixBits := by
    rw [abs_div, abs_of_pos hB]; gcongr
  have hpi : |quarterTurns u * (Real.pi / 2 - halfPiReal)| ≤ 1 / 2 ^ fixBits := by
    rw [abs_mul, abs_of_nonneg (Nat.cast_nonneg _)]
    calc _ ≤ (2 : ℝ) ^ 128 * (4 / (2 ^ 230 * 2 ^ 230)) :=
          mul_le_mul hturns abs_halfPiReal_sub_le (abs_nonneg _) (by positivity)
      _ ≤ 1 / 2 ^ fixBits := by rw [two_pow_fixBits]; norm_num
  rw [hexact]
  calc _ ≤ 1 / 2 ^ fixBits + 1 / 2 ^ fixBits := (abs_add_le _ _).trans (add_le_add harg hpi)
    _ = 2 / 2 ^ fixBits := by ring

theorem sin_signed (neg : Bool) (x : ℝ) : Real.sin (signed neg x) = signed neg (Real.sin x) := by
  cases neg <;> simp [signed]

/-- `reducedSine` is the sine or cosine of the exact remainder, within `fixError`. -/
theorem abs_reducedSine_sub_le {u : Nat} {x : ℝ}
    (hx : |(reducedArg u : ℝ) / 2 ^ fixBits - x| ≤ 2 / 2 ^ fixBits) :
    |2 ^ fixBits * (if quarterTurns u % 2 = 0 then Real.sin x else Real.cos x) - reducedSine u| ≤
      (fixError : ℝ) := by
  have hB : (0 : ℝ) < 2 ^ fixBits := by positivity
  obtain ⟨hsin, hcos⟩ := abs_fixTrig_sub_le (reducedArg_le u)
  have hclose : ∀ (f : ℝ → ℝ) (v : ℝ), (∀ y z, |f y - f z| ≤ |y - z|) →
      |v - 2 ^ fixBits * f (reducedArg u / 2 ^ fixBits)| ≤ 16400 →
      |2 ^ fixBits * f x - v| ≤ (fixError : ℝ) := by
    intro f v hf hv
    have hmove : |2 ^ fixBits * f (reducedArg u / 2 ^ fixBits) - 2 ^ fixBits * f x| ≤ 2 := by
      rw [← mul_sub, abs_mul, abs_of_pos hB]
      exact (le_div_iff₀' hB).mp ((hf _ _).trans hx)
    rw [abs_sub_comm]
    calc _ ≤ (16400 : ℝ) + 2 := (abs_sub_le _ _ _).trans (add_le_add hv hmove)
      _ ≤ fixError := by rw [fixError]; norm_num
  unfold reducedSine
  split
  · exact hclose Real.sin _ Real.abs_sin_sub_sin_le hsin
  · exact hclose Real.cos _ Real.abs_cos_sub_cos_le hcos

/-- `sinScaled` is the real sine, within `fixError`. -/
theorem abs_sinScaled_sub_le {a : Word} (ha : isFinite a = true) :
    |2 ^ fixBits * Real.sin (val a) - sinScaled a| ≤ (fixError : ℝ) := by
  set u := unitsOf (magBits a) with hu
  have hred := abs_reducedArg_sub_le (unitsOf_lt_of_lt_infMag (magBits_lt_infMag ha))
  rw [← hu] at hred
  have hsine := abs_reducedSine_sub_le hred
  set x : ℝ := (u : ℝ) / 2 ^ 149 - quarterTurns u * (Real.pi / 2) with hx
  have hsin : Real.sin (val a) = signed (signBit a != decide (2 ≤ quarterTurns u % 4))
      (if quarterTurns u % 2 = 0 then Real.sin x else Real.cos x) := by
    rw [val_eq_signed, signed_div_right, sin_signed, ← signed_signed, ← sin_nat_mul_half_pi_add, hx,
      add_sub_cancel, hu]
  have hscaled : (sinScaled a : ℝ) = signed (signBit a != decide (2 ≤ quarterTurns u % 4))
      (reducedSine u) := by
    rw [sinScaled_eq, ← hu, signed]
    split <;> simp
  rwa [hsin, hscaled, mul_signed, abs_signed_sub_signed]

end Sys2Proof.Machine

namespace Sys2Proof.Proofs
open Machine

/-- Settles O60: the fixed-point sine stays within `fixError`, so `roundBoth` decides rightly. -/
theorem defaultSineRoundsCorrectly : Obligations.DefaultSineRoundsCorrectly := by
  intro a w ha hz h
  constructor
  · simp [sin32, isNaN_of_isFinite ha, isInf_of_isFinite ha, hz, h]
  · have hround := roundBoth_roundsTo (by positivity) h (abs_sinScaled_sub_le ha)
    rwa [Nat.cast_pow, Nat.cast_ofNat, div_div, ← two_pow_fixBits,
      mul_div_cancel_left₀ _ (by positivity)] at hround

end Sys2Proof.Proofs
end

section
/-!
The registers of an oscillator: their numbers, what a write leaves in each, and their legal values in real
numbers (R30, R31, R32, R100).
-/
namespace Sys2Proof.Machine

/-! ### Register numbers (R30, R100) -/

/-- The number of a writable register in the table of R30. -/
def paramNumber : ParamReg → Byte
  | .delay => 0x00#8
  | .attack => 0x01#8
  | .hold => 0x02#8
  | .decay => 0x03#8
  | .sustain => 0x04#8
  | .release => 0x05#8
  | .waveform => 0x06#8
  | .pulseWidth => 0x07#8
  | .unisonCount => 0x08#8
  | .detuneDepth => 0x09#8
  | .phaseSpread => 0x0A#8
  | .stereoWidth => 0x0B#8

@[simp] theorem paramReg?_paramNumber (r : ParamReg) : paramReg? (paramNumber r) = some r := by
  cases r <;> rfl

theorem paramReg?_eq_some_iff {reg : Byte} {r : ParamReg} :
    paramReg? reg = some r ↔ reg = paramNumber r := by
  refine ⟨fun h => ?_, fun h => by rw [h, paramReg?_paramNumber]⟩
  apply BitVec.eq_of_toNat_eq
  unfold paramReg? at h
  split at h <;> cases h <;> assumption

/-! ### What a write leaves in each register (R150) -/

@[simp] theorem waveform?_waveformCode (w : Waveform) : waveform? (waveformCode w) = some w := by
  cases w <;> rfl

theorem exists_waveformCode_eq {x : Word} (h : x.toNat ≤ 4) : ∃ w, waveformCode w = x := by
  obtain rfl | rfl | rfl | rfl | rfl :
      x = 0#32 ∨ x = 1#32 ∨ x = 2#32 ∨ x = 3#32 ∨ x = 4#32 := by bv_omega
  · exact ⟨.sine, rfl⟩
  · exact ⟨.square, rfl⟩
  · exact ⟨.triangle, rfl⟩
  · exact ⟨.sawtooth, rfl⟩
  · exact ⟨.noise, rfl⟩

theorem getParam_setParam_self {p : Params} {r : ParamReg} {x : Word} (h : legalValue r x = true) :
    getParam (setParam p r x) r = x := by
  cases r with
  | waveform =>
    obtain ⟨w, rfl⟩ := exists_waveformCode_eq (of_decide_eq_true h)
    simp [getParam, setParam]
  | _ => rfl

theorem getParam_setParam_of_ne {p : Params} {r r' : ParamReg} {x : Word} (h : r' ≠ r) :
    getParam (setParam p r x) r' = getParam p r' := by
  cases r <;> cases r' <;> simp [getParam, setParam] at h ⊢

/-! ### Legal values in real numbers (R31) -/

theorem isFinite_iff_orderKey {x : Word} :
    isFinite x = true ↔ -(infMag : Int) < orderKey x ∧ orderKey x < infMag := by
  have hpos : 0 < infMag := by decide
  cases h : signBit x <;>
    simp only [isFinite, orderKey, h, decide_eq_true_eq, if_true, Bool.false_eq_true, if_false] <;> omega

theorem le32_eq_true_iff {a b : Word} :
    le32 a b = true ↔ isNaN a = false ∧ isNaN b = false ∧ orderKey a ≤ orderKey b := by
  simp [le32, and_assoc]

/-- A value between finite bounds is finite, so the bounds can be read as reals. -/
theorem inRange32_iff {lo hi x : Word} (hlo : isFinite lo = true) (hhi : isFinite hi = true) :
    inRange32 lo hi x = true ↔ isFinite x = true ∧ val lo ≤ val x ∧ val x ≤ val hi := by
  constructor
  · intro h
    simp only [inRange32, Bool.and_eq_true] at h
    obtain ⟨hge, hle⟩ := h
    obtain ⟨-, -, h1⟩ := le32_eq_true_iff.mp hge
    obtain ⟨-, -, h2⟩ := le32_eq_true_iff.mp hle
    obtain ⟨hlo', -⟩ := isFinite_iff_orderKey.mp hlo
    obtain ⟨-, hhi'⟩ := isFinite_iff_orderKey.mp hhi
    exact ⟨isFinite_iff_orderKey.mpr ⟨by omega, by omega⟩, orderKey_le_iff.mp h1,
      orderKey_le_iff.mp h2⟩
  · rintro ⟨hx, h1, h2⟩
    simp only [inRange32, Bool.and_eq_true]
    exact ⟨(ge32_iff hx hlo).mpr h1, (le32_iff hx hhi).mpr h2⟩

/-- `inRange32` between the patterns of two whole numbers. -/
theorem inRange32_iff_of_units {lo hi x : Word} {m n : Int}
    (hlo : isFinite lo = true ∧ exactUnits lo = m * 2 ^ 149)
    (hhi : isFinite hi = true ∧ exactUnits hi = n * 2 ^ 149) :
    inRange32 lo hi x = true ↔ isFinite x = true ∧ m ≤ val x ∧ val x ≤ n := by
  have hval : ∀ {a : Word} {z : Int}, exactUnits a = z * 2 ^ 149 → val a = z := by
    intro a z h
    rw [val, h]
    push_cast
    exact mul_div_cancel_right₀ _ (by positivity)
  rw [inRange32_iff hlo.1 hhi.1, hval hlo.2, hval hhi.2]

theorem val_zero32 : val zero32 = 0 := val_eq_zero_iff.mpr (by decide)

end Sys2Proof.Machine

namespace Sys2Proof.Proofs
open Machine

/-- Settles O11: the bounds of R31 are finite patterns of these values. -/
theorem legalValuesAreRealRanges : Obligations.LegalValuesAreRealRanges := by
  intro x
  have htime : (isFinite x && ge32 x zero32) = true ↔ isFinite x = true ∧ 0 ≤ val x := by
    rw [Bool.and_eq_true]
    refine and_congr_right fun hx => ?_
    rw [ge32_iff hx (by decide), val_zero32]
  have hunit : inRange32 zero32 one32 x = true ↔ isFinite x = true ∧ 0 ≤ val x ∧ val x ≤ 1 := by
    simpa using inRange32_iff_of_units (m := 0) (n := 1) (by decide) (by decide)
  have hdetune : inRange32 0xC3800000#32 0x43800000#32 x = true ↔
      isFinite x = true ∧ -256 ≤ val x ∧ val x ≤ 256 := by
    simpa using inRange32_iff_of_units (m := -256) (n := 256) (by decide) (by decide)
  have hwidth : inRange32 0xBF800000#32 one32 x = true ↔
      isFinite x = true ∧ -1 ≤ val x ∧ val x ≤ 1 := by
    simpa using inRange32_iff_of_units (m := -1) (n := 1) (by decide) (by decide)
  have hvolume : inRange32 zero32 0x47800000#32 x = true ↔
      isFinite x = true ∧ 0 ≤ val x ∧ val x ≤ 65536 := by
    simpa using inRange32_iff_of_units (m := 0) (n := 65536) (by decide) (by decide)
  refine ⟨?_, ?_, by simp [legalValue], by simp [legalValue], ?_, Iff.rfl, hwidth, hvolume⟩
  · rintro r (rfl | rfl | rfl | rfl | rfl) <;> exact htime
  · rintro r (rfl | rfl) <;> exact hunit
  · rw [legalValue, Bool.and_eq_true, hdetune, and_iff_right_iff_imp]
    exact fun h => h.1

end Sys2Proof.Proofs
end

section
/-!
The frame of each command (R25, R30, R134, R140, R150), and who takes a voice out of IDLE (R42).
-/
namespace Sys2Proof.Machine

/-! ### What every command leaves unchanged -/

/-- A KEY_ON changes the pool of its oscillator and may raise POOL_DROP (R130). -/
theorem keyOnInstance_cases (k : Nat) (key vel : Byte) (s : State) :
    (s.oscs[k]? = none ∧ keyOnInstance k key vel s = s) ∨
    ∃ o s1, s.oscs[k]? = some o ∧
      s1 = modifyOsc k (fun u => { u with voices := (keyOnPool key vel o).1 }) s ∧
      (keyOnInstance k key vel s = s1 ∨ keyOnInstance k key vel s = raise .poolDrop s1) := by
  unfold keyOnInstance
  split
  · exact .inl ⟨by assumption, rfl⟩
  · refine .inr ⟨_, _, by assumption, rfl, ?_⟩
    dsimp only
    split
    · exact .inr rfl
    · exact .inl rfl

theorem exec_frame {i : Instr} {s t : State} (h : exec i s = .next t) :
    t = { s with sticky := t.sticky, globalVolume := t.globalVolume, oscs := t.oscs } := by
  obtain rfl | ⟨_, rfl⟩ | ⟨_, -, rfl⟩ | ⟨_, _, _, -, rfl⟩ | ⟨_, _, rfl⟩ | ⟨k, key, vel, rfl⟩ :=
    exec_cases h
  · rfl
  · rfl
  · rfl
  · rfl
  · rfl
  · obtain ⟨-, heq⟩ | ⟨_, _, -, rfl, heq | heq⟩ := keyOnInstance_cases k key vel s <;>
      rw [heq] <;> rfl

/-! ### What each command leaves unchanged of the instances -/

/-- At most oscillator k differs between s and t, and g of it does not. -/
structure ChangesOnly {α : Type} (g : Osc → α) (k : Nat) (s t : State) : Prop where
  others : ∀ j, j ≠ k → t.oscs[j]? = s.oscs[j]?
  kept : t.oscs.map g = s.oscs.map g

theorem ChangesOnly.of_oscs_eq {α : Type} {g : Osc → α} {k : Nat} {s t : State}
    (h : t.oscs = s.oscs) : ChangesOnly g k s t :=
  ⟨fun _ _ => by rw [h], by rw [h]⟩

theorem changesOnly_modifyOsc {α : Type} {g : Osc → α} (k : Nat) {f : Osc → Osc} (s : State)
    (h : ∀ o, g (f o) = g o) : ChangesOnly g k s (modifyOsc k f s) :=
  ⟨fun _ hj => by simp [Ne.symm hj], modifyOsc_map g k f s fun o _ => h o⟩

section
variable {inst key vel reg : Byte} {value : Word} {s t : State}

theorem execKeyOn_frame (h : exec (.keyOn inst key vel) s = .next t) :
    t.globalVolume = s.globalVolume ∧ ChangesOnly Osc.params inst.toNat s t := by
  simp only [exec, execKeyOn] at h
  split at h <;> cases h
  · obtain ⟨-, heq⟩ | ⟨o, s1, -, rfl, heq⟩ := keyOnInstance_cases inst.toNat key vel s
    · rw [heq]; exact ⟨rfl, .of_oscs_eq rfl⟩
    · have hframe := changesOnly_modifyOsc (g := Osc.params) inst.toNat
        (f := fun u => { u with voices := (keyOnPool key vel o).1 }) s fun _ => rfl
      obtain heq | heq := heq <;> rw [heq] <;> exact ⟨rfl, hframe.others, hframe.kept⟩
  · exact ⟨rfl, .of_oscs_eq rfl⟩

/-- A KEY_OFF with INST out of range changes no oscillator, else it releases voices of its own (R140). -/
theorem execKeyOff_cases (h : exec (.keyOff inst key) s = .next t) :
    t = raise .badCmd s ∨ t = modifyOsc inst.toNat
      (fun o => { o with voices := o.voices.map (releaseVoice s.cfg.keyOffReleasesIdle key) }) s := by
  simp only [exec, execKeyOff] at h
  split at h <;> cases h
  · exact .inr rfl
  · exact .inl rfl

theorem execKeyOff_frame (h : exec (.keyOff inst key) s = .next t) :
    t.globalVolume = s.globalVolume ∧ ChangesOnly Osc.params inst.toNat s t := by
  obtain rfl | rfl := execKeyOff_cases h
  · exact ⟨rfl, .of_oscs_eq rfl⟩
  · exact ⟨rfl, changesOnly_modifyOsc _ _ fun _ => rfl⟩

theorem writeGlobal_frame (reg : Byte) (value : Word) (s : State) :
    ((writeGlobal reg value s).globalVolume ≠ s.globalVolume → reg = globalVolumeReg) ∧
      (writeGlobal reg value s).oscs = s.oscs := by
  unfold writeGlobal
  split
  · next hreg =>
    refine ⟨fun _ => hreg, ?_⟩
    split <;> rfl
  · exact ⟨fun h => absurd rfl h, rfl⟩

theorem writeInstance_frame (k : Nat) (reg : Byte) (value : Word) (s : State) :
    (writeInstance k reg value s).globalVolume = s.globalVolume ∧
      ChangesOnly Osc.voices k s (writeInstance k reg value s) := by
  unfold writeInstance
  split
  · exact ⟨rfl, .of_oscs_eq rfl⟩
  · split
    · exact ⟨rfl, changesOnly_modifyOsc _ _ fun _ => rfl⟩
    · exact ⟨rfl, .of_oscs_eq rfl⟩

theorem execWriteReg_frame (h : exec (.writeReg inst reg value) s = .next t) :
    (t.globalVolume ≠ s.globalVolume → inst = globalInst ∧ reg = globalVolumeReg) ∧
      ChangesOnly Osc.voices inst.toNat s t := by
  simp only [exec, execWriteReg] at h
  split at h
  · next hinst =>
    cases h
    obtain ⟨hvolume, hoscs⟩ := writeGlobal_frame reg value s
    exact ⟨fun hne => ⟨hinst, hvolume hne⟩, .of_oscs_eq hoscs⟩
  · split at h <;> cases h
    · obtain ⟨hvolume, hoscs⟩ := writeInstance_frame inst.toNat reg value s
      exact ⟨fun hne => absurd hvolume hne, hoscs⟩
    · exact ⟨fun hne => absurd rfl hne, .of_oscs_eq rfl⟩

end

/-! ### One voice after a command -/

theorem voiceAt_eq (s : State) (k j : Nat) :
    voiceAt s k j = (s.oscs.map Osc.voices)[k]?.bind (·[j]?) := by
  cases h : s.oscs[k]? <;> simp [voiceAt, h]

theorem voiceAt_congr {s t : State} {k : Nat} (h : t.oscs[k]? = s.oscs[k]?) (j : Nat) :
    voiceAt t k j = voiceAt s k j := by
  simp only [voiceAt, h]

theorem voiceAt_execKeyOff {inst key : Byte} {s t : State}
    (h : exec (.keyOff inst key) s = .next t) (k j : Nat) :
    voiceAt t k j = voiceAt s k j ∨ voiceAt t k j =
      (voiceAt s k j).map (releaseVoice s.cfg.keyOffReleasesIdle key) := by
  obtain rfl | rfl := execKeyOff_cases h
  · exact .inl rfl
  · by_cases hk : inst.toNat = k
    · right
      cases ho : s.oscs[k]? <;> simp [voiceAt, hk, ho]
    · exact .inl (voiceAt_congr (by simp [hk]) j)

theorem releaseVoice_of_idle {v : Voice} (key : Byte) (h : v.stage = .idle) :
    releaseVoice false key v = v := by
  simp [releaseVoice, h]

theorem tick_of_idle {v : Voice} (p : Params) (dt : Word) (h : v.stage = .idle) :
    tick p dt v = { v with volume := zero32 } := by
  simp [tick, h]

end Sys2Proof.Machine

namespace Sys2Proof.Proofs
open Machine

/-- Settles O14, from the frame of each command. -/
theorem commandFrame : Obligations.CommandFrame := by
  intro i s t h
  refine ⟨exec_frame h, ?_, ?_, ?_⟩
  · rintro k key vel rfl
    obtain ⟨hvolume, hoscs⟩ := execKeyOn_frame h
    exact ⟨hvolume, hoscs.others, hoscs.kept⟩
  · rintro k key rfl
    obtain ⟨hvolume, hoscs⟩ := execKeyOff_frame h
    exact ⟨hvolume, hoscs.others, hoscs.kept⟩
  · rintro k reg value rfl
    obtain ⟨hvolume, hoscs⟩ := execWriteReg_frame h
    exact ⟨hvolume, hoscs.others, hoscs.kept⟩

/-- Settles O16: a KEY_OFF passes idle voices by, and WRITE_REG changes no voice. -/
theorem onlyKeyOnLeavesIdle : Obligations.OnlyKeyOnLeavesIdle := by
  refine ⟨fun p dt v hidle => by rw [tick_of_idle p dt hidle]; exact hidle, ?_⟩
  intro i s t k j v w h hkeep hv hw hidle hleft
  have hchanged : voiceAt t k j ≠ voiceAt s k j := by
    rw [hv, hw]
    rintro ⟨⟩
    exact hleft hidle
  cases i with
  | nop =>
    cases h
    exact absurd rfl hchanged
  | keyOn inst key vel =>
    refine ⟨inst, key, vel, ?_, rfl⟩
    by_contra hk
    exact hchanged (voiceAt_congr ((execKeyOn_frame h).2.others k (Ne.symm hk)) j)
  | keyOff inst key =>
    obtain heq | heq := voiceAt_execKeyOff h k j
    · exact absurd heq hchanged
    · rw [hv, hkeep, Option.map_some, releaseVoice_of_idle key hidle, ← hv] at heq
      exact absurd heq hchanged
  | writeReg inst reg value =>
    refine absurd ?_ hchanged
    rw [voiceAt_eq, voiceAt_eq, (execWriteReg_frame h).2.kept]

end Sys2Proof.Proofs
end

section
/-!
What a step keeps: every change of the configuration, GLOBAL_VOLUME and the instances goes through a few
changes of one oscillator, so an invariant of these parts of the state is shown on those changes alone.
-/
namespace Sys2Proof.Machine

/-! ### Changes of one oscillator (R130, R140, R150, R232) -/

/-- What one command or one block can make of an oscillator, under a configuration and GLOBAL_VOLUME. -/
inductive OscStep (c : Config) (volume : Word) (o : Osc) : Osc → Prop
  | write {r : ParamReg} {x : Word} (hx : legalValue r x = true) :
      OscStep c volume o { o with params := setParam o.params r x }
  | keyOn (key vel : Byte) : OscStep c volume o { o with voices := (keyOnPool key vel o).1 }
  | keyOff (key : Byte) : OscStep c volume o
      { o with voices := o.voices.map (releaseVoice c.keyOffReleasesIdle key) }
  | render (cells : List Frame) : OscStep c volume o
      { o with voices := (oscBlock c o.params volume o.voices cells).1 }

/-- An invariant of the configuration, GLOBAL_VOLUME and the instances, with the changes that it must
survive. -/
structure Kept (P : State → Prop) : Prop where
  congr : ∀ {s t : State}, P s → t.cfg = s.cfg → t.globalVolume = s.globalVolume →
    t.oscs = s.oscs → P t
  volume : ∀ {s : State} {x : Word}, legalVolume x = true → P s → P (setGlobalVolume x s)
  osc : ∀ {s : State} {k : Nat} {f : Osc → Osc},
    (∀ o, s.oscs[k]? = some o → OscStep s.cfg s.globalVolume o (f o)) → P s → P (modifyOsc k f s)
  reset : ∀ {c : Config}, configWellFormed c = true → P (State.resetWith c)

section
variable {P : State → Prop} (hP : Kept P)
include hP

theorem Kept.raise {s : State} (e : ErrorEvent) (h : P s) : P (raise e s) :=
  hP.congr h (raise_cfg s e) (raise_globalVolume s e) (raise_oscs s e)

theorem Kept.exec {i : Instr} {s t : State} (h : P s) (ht : exec i s = .next t) : P t := by
  obtain rfl | ⟨e, rfl⟩ | ⟨x, hx, rfl⟩ | ⟨k, r, x, hx, rfl⟩ | ⟨k, key, rfl⟩ | ⟨k, key, vel, rfl⟩ :=
    exec_cases ht
  · exact h
  · exact hP.raise e h
  · exact hP.volume hx h
  · exact hP.osc (fun _ _ => .write hx) h
  · exact hP.osc (fun _ _ => .keyOff key) h
  · obtain ⟨-, heq⟩ | ⟨o, s1, ho, rfl, hcases⟩ := keyOnInstance_cases k key vel s
    · rwa [heq]
    · have hs1 := hP.osc (k := k) (f := fun u => { u with voices := (keyOnPool key vel o).1 })
        (fun u hu => by
          obtain rfl : o = u := Option.some.inj (ho.symm.trans hu)
          exact .keyOn key vel) h
      obtain heq | heq := hcases
      · rwa [heq]
      · rw [heq]; exact hP.raise _ hs1

theorem Kept.execWord {w : CmdWord} {s t : State} (h : P s) (ht : execWord w s = .next t) : P t := by
  obtain ⟨i, -, hi⟩ | rfl := execWord_cases ht
  · exact hP.exec h hi
  · exact hP.raise _ h

theorem Kept.drain {ws : List CmdWord} {s t : State} (h : P s) (ht : drain ws s = .next t) : P t :=
  drain_keeps P (fun _ ws u _ hu hw =>
    hP.execWord (s := setFifo ws u) (hP.congr hu rfl rfl rfl) hw) ws s t h ht

theorem Kept.renderSource {n : Nat} {r : State × List Frame} (src : Source) (h : P r.1) :
    P (renderSource n r src).1 := by
  obtain heq | ⟨k, o, -, ho, heq⟩ | ⟨j, -, heq⟩ := renderSource_state n r src
  · rwa [heq]
  · rw [heq]
    refine hP.osc (fun u hu => ?_) h
    obtain rfl : o = u := Option.some.inj (ho.symm.trans hu)
    exact .render r.2
  · rw [heq]
    exact hP.congr h (dropExt_cfg ..) (dropExt_globalVolume ..) (dropExt_oscs ..)

theorem Kept.renderBlock {s : State} (n : Word) (h : P s) : P (renderBlock n s) :=
  hP.congr (renderSources_keeps P n.toNat (fun _ src => hP.renderSource src) s h) rfl rfl rfl

/-- A step keeps what every change of an oscillator keeps, and RESET establishes it anew (R80). -/
theorem Kept.step {s t : State} (h : P s) (ht : step s = .next t) : P t := by
  obtain ⟨hwf, ⟨-, rfl⟩ | ⟨op, ops, -, hop⟩⟩ := step_cases ht
  · exact h
  have hs : P { s with pending := ops } := hP.congr h rfl rfl rfl
  obtain ⟨w, -, rfl⟩ | ⟨a, -, rfl⟩ | ⟨a, d, -, rfl⟩ | ⟨-, rfl⟩ | ⟨n, u, -, -, -, hdrain, rfl⟩ := hop
  · unfold pushStep
    split
    · exact hP.congr hs rfl rfl rfl
    · exact hP.raise _ hs
  · exact hP.congr hs rfl rfl rfl
  · unfold writeStep memWrite
    split
    · exact hP.congr hs rfl rfl rfl
    · exact hs
  · exact hP.congr (hP.reset hwf) rfl rfl rfl
  · exact hP.renderBlock n (hP.drain hs hdrain)

end

/-! ### Parts of a well-formed configuration (R4) -/

section
variable {c : Config} (h : configWellFormed c = true)
include h

theorem instanceWellFormed_of_wellFormed {i : InstConfig} (hi : i ∈ c.instances) :
    instanceWellFormed i = true := by
  simp only [configWellFormed, sourcesWellFormed, Bool.and_eq_true, List.all_eq_true] at h
  obtain ⟨⟨-, -, -, hinst⟩, -⟩ := h
  exact hinst i hi

/-- The bounds that make the registers G 0x07 and G 0x08 wide enough (R4, R25). -/
theorem bounds_of_wellFormed : c.nosc ≤ 255 ∧ c.next ≤ 255 ∧ c.fifoDepth ≤ 65535 ∧
    c.maxBlock ≤ 2147483647 := by
  simp only [configWellFormed, sourcesWellFormed, sizesWellFormed, Bool.and_eq_true,
    decide_eq_true_eq] at h
  obtain ⟨⟨-, hnosc, hnext, -⟩, -, ⟨-, -, -, hblock, -, hfifo⟩, -⟩ := h
  exact ⟨hnosc, hnext, hfifo, hblock⟩

theorem legalVolume_resetVolume_of_wellFormed : legalVolume c.resetVolume = true := by
  simp only [configWellFormed, valuesWellFormed, Bool.and_eq_true] at h
  obtain ⟨-, -, -, -, -, hv⟩ := h
  exact hv

end

section
variable {i : InstConfig} (h : instanceWellFormed i = true)
include h

theorem nvoices_le_of_wellFormed : i.nvoices ≤ 65535 := by
  simp only [instanceWellFormed, Bool.and_eq_true, decide_eq_true_eq] at h
  obtain ⟨⟨⟨-, hle⟩, -⟩, -⟩ := h
  exact hle

theorem seed_ne_zero_of_wellFormed {seed : Word} (hseed : seed ∈ i.seeds) : seed ≠ 0#32 := by
  simp only [instanceWellFormed, Bool.and_eq_true, List.all_eq_true, decide_eq_true_eq] at h
  obtain ⟨⟨-, hne⟩, -⟩ := h
  exact hne seed hseed

theorem paramsLegal_resetParams_of_wellFormed : paramsLegal i.resetParams = true := by
  simp only [instanceWellFormed, Bool.and_eq_true] at h
  exact h.2

end

/-! ### What holds of every oscillator -/

/-- What a change of oscillator k keeps of that oscillator, it keeps of all. -/
theorem forall_oscs_modifyOsc {Q : Osc → Prop} {s : State} {k : Nat} {f : Osc → Osc}
    (hf : ∀ o, s.oscs[k]? = some o → Q o → Q (f o)) (h : ∀ o ∈ s.oscs, Q o) :
    ∀ o ∈ (modifyOsc k f s).oscs, Q o := by
  intro o ho
  obtain ⟨m, hm⟩ := List.mem_iff_getElem?.mp ho
  rw [modifyOsc_oscs, List.getElem?_modify] at hm
  obtain ⟨u, hu, rfl⟩ := Option.map_eq_some_iff.mp hm
  have hQ : Q u := h u (List.mem_of_getElem? hu)
  split
  · next hk => exact hf u (hk ▸ hu) hQ
  · exact hQ

theorem forall_oscs_resetWith {Q : Osc → Prop} {c : Config}
    (h : ∀ i ∈ c.instances, Q (resetOsc i)) : ∀ o ∈ (State.resetWith c).oscs, Q o :=
  List.forall_mem_map.mpr h

theorem OscStep.voices_length {c : Config} {volume : Word} {o o' : Osc}
    (h : OscStep c volume o o') : o'.voices.length = o.voices.length := by
  cases h with
  | write => rfl
  | keyOn => exact placeFrom_length ..
  | keyOff => exact List.length_map _
  | render => exact (oscBlock_length ..).1

/-! ### Voice invariants -/

/-- A property of voices, with the changes of a voice that it must survive: a KEY_ON position (R134), a
KEY_OFF (R140), a frame (R230) and the reset of a voice with a nonzero seed (R320). -/
structure VoiceKept (P : Voice → Prop) : Prop where
  place : ∀ (p : Params) (key vel : Byte) (n i : Nat) {v : Voice}, P v → P (placeUnison p key vel n i v)
  release : ∀ (b : Bool) (key : Byte) {v : Voice}, P v → P (releaseVoice b key v)
  frame : ∀ (c : Config) (p : Params) (volume : Word) {v : Voice} (cell : Frame),
    P v → P (voiceFrame c p volume v cell).1
  reset : ∀ {seed : Word}, seed ≠ 0#32 → P (resetVoice seed)

theorem allVoices_resetWith {P : Voice → Prop} {c : Config}
    (h : ∀ i ∈ c.instances, ∀ seed ∈ i.seeds, P (resetVoice seed)) :
    AllVoices P (State.resetWith c) :=
  forall_oscs_resetWith fun i hi => List.forall_mem_map.mpr (h i hi)

theorem OscStep.forall_voices {P : Voice → Prop} (hP : VoiceKept P) {c : Config} {volume : Word}
    {o o' : Osc} (hstep : OscStep c volume o o') (h : ∀ v ∈ o.voices, P v) : ∀ v ∈ o'.voices, P v := by
  cases hstep with
  | write => exact h
  | keyOn key vel =>
    intro v hv
    obtain hv | ⟨u, m, hu, rfl⟩ := placeFrom_mem hv
    · exact h v hv
    · exact hP.place _ _ _ _ _ (h u hu)
  | keyOff key => exact List.forall_mem_map.mpr fun u hu => hP.release _ _ (h u hu)
  | render cells =>
    exact oscBlock_keeps P _ _ _ (fun _ cell hv => hP.frame _ _ _ cell hv) _ _ h

theorem VoiceKept.kept {P : Voice → Prop} (hP : VoiceKept P) : Kept (AllVoices P) where
  congr hs _ _ hoscs := by unfold AllVoices; rwa [hoscs]
  volume _ hs := hs
  osc hstep hs := forall_oscs_modifyOsc (fun o ho hv => (hstep o ho).forall_voices hP hv) hs
  reset hwf := allVoices_resetWith fun _ hi _ hseed =>
    hP.reset (seed_ne_zero_of_wellFormed (instanceWellFormed_of_wellFormed hwf hi) hseed)

/-! ### Registers (R31, R150, R151) -/

theorem paramsLegal_iff {p : Params} :
    paramsLegal p = true ↔ ∀ r, legalValue r (getParam p r) = true := by
  refine ⟨fun h r => ?_, fun h => List.all_eq_true.mpr fun r _ => h r⟩
  exact List.all_eq_true.mp h r (by cases r <;> decide)

theorem paramsLegal_setParam {p : Params} {r : ParamReg} {x : Word} (hp : paramsLegal p = true)
    (hx : legalValue r x = true) : paramsLegal (setParam p r x) = true := by
  rw [paramsLegal_iff] at hp ⊢
  intro r'
  by_cases h : r' = r
  · rw [h, getParam_setParam_self hx]; exact hx
  · rw [getParam_setParam_of_ne h]; exact hp r'

theorem OscStep.paramsLegal {c : Config} {volume : Word} {o o' : Osc} (hstep : OscStep c volume o o')
    (h : paramsLegal o.params = true) : paramsLegal o'.params = true := by
  cases hstep with
  | write hx => exact paramsLegal_setParam h hx
  | _ => exact h

theorem registersLegal_kept : Kept RegistersLegal where
  congr hs _ hvolume hoscs := by unfold RegistersLegal; rwa [hoscs, hvolume]
  volume hx hs := ⟨hs.1, hx⟩
  osc hstep hs := ⟨forall_oscs_modifyOsc (fun o ho => (hstep o ho).paramsLegal) hs.1, hs.2⟩
  reset hwf := ⟨forall_oscs_resetWith fun _ hi =>
    paramsLegal_resetParams_of_wellFormed (instanceWellFormed_of_wellFormed hwf hi),
    legalVolume_resetVolume_of_wellFormed hwf⟩

/-! ### Pools (R40) -/

theorem poolsSized_kept : Kept PoolsSized where
  congr hs hcfg _ hoscs := by unfold PoolsSized; rwa [hoscs, hcfg]
  volume _ hs := hs
  osc hstep hs := (modifyOsc_map _ _ _ _ fun o ho => (hstep o ho).voices_length).trans hs
  reset _ := by simp [PoolsSized, State.resetWith, resetOsc, InstConfig.nvoices]

/-! ### Idle voices are silent (R43) -/

/-- Each part of a tick leaves a voice idle only by ending its note, which silences it. -/
theorem idleSilent_tick (p : Params) (dt : Word) (v : Voice) : IdleSilent (tick p dt v) := by
  have hdelay : ∀ {w}, IdleSilent w → IdleSilent (tickDelay p w) := by
    intro w hw; simp only [tickDelay, leaveStage]; split_ifs <;> simp_all [IdleSilent]
  have hattack : ∀ {w}, IdleSilent w → IdleSilent (tickAttack p w) := by
    intro w hw; simp only [tickAttack, leaveStage]; split_ifs <;> simp_all [IdleSilent]
  have hhold : ∀ {w}, IdleSilent w → IdleSilent (tickHold p w) := by
    intro w hw; simp only [tickHold, leaveStage]; split_ifs <;> simp_all [IdleSilent]
  have hdecay : ∀ {w}, IdleSilent w → IdleSilent (tickDecay p w) := by
    intro w hw; simp only [tickDecay, leaveStage]; split_ifs <;> simp_all [IdleSilent]
  have hsustain : ∀ {w}, IdleSilent w → IdleSilent (tickSustain p w) := by
    intro w hw; simp only [tickSustain, endNote]; split_ifs <;> simp_all [IdleSilent]
  have hrelease : ∀ {w}, IdleSilent w → IdleSilent (tickRelease p dt w) := by
    intro w hw; simp only [tickRelease, endNote]; split_ifs <;> simp_all [IdleSilent]
  unfold tick
  split
  · exact fun _ => rfl
  · next hidle =>
    exact hrelease (hsustain (hdecay (hhold (hattack (hdelay fun h => absurd h hidle)))))

theorem idleSilent_kept : VoiceKept IdleSilent where
  place _ _ _ _ _ _ _ := fun hidle => by simp [placeUnison, placeVoice] at hidle
  release _ _ _ hv := by
    unfold releaseVoice
    split
    · exact fun hidle => by simp at hidle
    · exact hv
  frame c p _ v _ _ := by
    have htick := idleSilent_tick p (dt32 c) v
    unfold voiceFrame
    dsimp only
    split
    · exact htick
    · exact fun hidle => htick hidle
  reset _ := fun _ => rfl

/-! ### Reset voices (R60, R320) -/

theorem envelopeInRange_resetVoice (seed : Word) : EnvelopeInRange (resetVoice seed) := by
  simp only [EnvelopeInRange, resetVoice]
  decide

theorem phaseInRange_resetVoice (seed : Word) : PhaseInRange (resetVoice seed) := by
  simp only [PhaseInRange, resetVoice]
  decide

theorem soundInRange_resetVoice (seed : Word) : SoundInRange (resetVoice seed) := by
  simp only [SoundInRange, resetVoice]
  decide

/-! ### The FIFO (R50, R240, R271) -/

theorem exec_fifo {i : Instr} {s t : State} (h : exec i s = .next t) : t.fifo = s.fifo :=
  (congrArg State.fifo (exec_frame h)).trans rfl

theorem execWord_fifo {w : CmdWord} {s t : State} (h : execWord w s = .next t) : t.fifo = s.fifo := by
  obtain ⟨i, -, hi⟩ | rfl := execWord_cases h
  · exact exec_fifo hi
  · rfl

/-- The drain of the whole FIFO empties it. -/
theorem drain_fifo {ws : List CmdWord} {s t : State} (h : drain ws s = .next t)
    (hs : s.fifo = ws) : t.fifo = [] := by
  induction ws generalizing s with
  | nil =>
    simp only [drain, Host.Outcome.next.injEq] at h
    exact h ▸ hs
  | cons w ws ih =>
    simp only [drain] at h
    split at h
    · next s1 hw => exact ih h ((execWord_fifo hw).trans (setFifo_fifo ..))
    · simp at h
    · simp at h

theorem fifoBounded_pushStep {w : CmdWord} {s : State} (h : FifoBounded s) :
    FifoBounded (pushStep w s) := by
  unfold pushStep FifoBounded
  split
  · simp; omega
  · exact h

end Sys2Proof.Machine

namespace Sys2Proof.Proofs
open Machine

/-- Settles O39: what WRITE_REG stores is legal, and RESET stores a well-formed configuration's values. -/
theorem registersStayLegal : Obligations.RegistersStayLegal :=
  fun _ _ hs ht => registersLegal_kept.step hs ht

/-- Settles O42: a tick that ends a note silences the voice, and nothing else makes a voice idle. -/
theorem idleVoicesStaySilent : Obligations.IdleVoicesStaySilent :=
  fun _ _ hs ht => idleSilent_kept.kept.step hs ht

/-- Settles O40: every change of an oscillator keeps the length of its pool. -/
theorem poolsKeepTheirSize : Obligations.PoolsKeepTheirSize :=
  fun _ _ hs ht => poolsSized_kept.step hs ht

/-- Settles O41: only a PUSH with room lengthens the FIFO; a BLOCK and RESET empty it. -/
theorem fifoNeverOverfills : Obligations.FifoNeverOverfills := by
  intro s t hs ht
  obtain ⟨-, ⟨-, rfl⟩ | ⟨op, ops, -, ⟨w, -, rfl⟩ | ⟨a, -, rfl⟩ | ⟨a, d, -, rfl⟩ | ⟨-, rfl⟩ |
    ⟨n, u, -, -, -, hdrain, rfl⟩⟩⟩ := step_cases ht
  · exact hs
  · exact fifoBounded_pushStep hs
  · exact hs
  · unfold writeStep memWrite
    split <;> exact hs
  · exact Nat.zero_le _
  · have hfifo : (renderBlock n u).fifo = [] :=
      (renderSources_sameRegistersAndNotes n.toNat u).fifo.trans (drain_fifo hdrain rfl)
    simp [FifoBounded, hfifo]

/-- Settles O45: the invariants of registers and pools start at a well-formed configuration's values, and
those of voices hold of any reset voice. -/
theorem resetMeetsInvariants : Obligations.ResetMeetsInvariants := by
  intro c hwf
  exact ⟨registersLegal_kept.reset hwf, poolsSized_kept.reset hwf, Nat.zero_le _,
    idleSilent_kept.kept.reset hwf,
    allVoices_resetWith fun _ hi _ hseed =>
      seed_ne_zero_of_wellFormed (instanceWellFormed_of_wellFormed hwf hi) hseed,
    allVoices_resetWith fun _ _ seed _ => envelopeInRange_resetVoice seed,
    allVoices_resetWith fun _ _ seed _ => phaseInRange_resetVoice seed,
    allVoices_resetWith fun _ _ seed _ => soundInRange_resetVoice seed⟩

end Sys2Proof.Proofs
end

section
/-!
What the host reads: the global registers, the registers of an oscillator and its voice windows
(R25, R27, R30, R40, R72), and what a WRITE_REG changes of them (R150).
-/
namespace Sys2Proof.Machine

/-! ### Register addresses (R71) -/

section
variable (inst : Byte) (vsel : BitVec 16) (reg : Byte)

@[simp] theorem addrInst_regAddr : addrInst (regAddr inst vsel reg) = inst :=
  (BitVec.extractLsb'_append_eq_of_le (by norm_num)).trans BitVec.extractLsb'_append_eq_left

@[simp] theorem addrVsel_regAddr : addrVsel (regAddr inst vsel reg) = vsel :=
  (BitVec.extractLsb'_append_eq_of_le (by norm_num)).trans BitVec.extractLsb'_append_eq_right

@[simp] theorem addrReg_regAddr : addrReg (regAddr inst vsel reg) = reg :=
  BitVec.extractLsb'_append_eq_right

end

/-! ### Reads by kind of address (R73) -/

theorem memRead_of_global {s : State} {a : Word} (h : addrInst a = globalInst) :
    memRead s a = readGlobal s (addrReg a) := by
  rw [memRead, if_pos h]

theorem memRead_of_inst {s : State} {a : Word} {o : Osc} (hlt : (addrInst a).toNat < s.cfg.nosc)
    (hnosc : s.cfg.nosc ≤ 255) (ho : s.oscs[(addrInst a).toNat]? = some o) :
    memRead s a = readOsc (nvoicesOf s (addrInst a).toNat) o (addrVsel a).toNat (addrReg a) := by
  have hinst : addrInst a ≠ globalInst := fun h => by
    rw [h, globalInst] at hlt
    simp at hlt
    omega
  simp only [memRead, if_neg hinst, instInRange, hlt, decide_true, if_true, ho]

theorem readOsc_of_paramReg {nv vsel : Nat} {o : Osc} {reg : Byte} {r : ParamReg}
    (h : paramReg? reg = some r) : readOsc nv o vsel reg = getParam o.params r := by
  simp only [readOsc, h]

/-- The window of a voice (R41). -/
theorem readOsc_of_window {nv vsel : Nat} {o : Osc} {v : Voice} {reg : Byte}
    (hreg : 0x80 ≤ reg.toNat) (hv : o.voices[vsel]? = some v) :
    readOsc nv o vsel reg = voiceField v reg := by
  have hparam : paramReg? reg = none := by
    rw [Option.eq_none_iff_forall_ne_some]
    intro r hr
    rw [paramReg?_eq_some_iff] at hr
    cases r <;> simp [hr, paramNumber] at hreg
  rw [readOsc, hparam]
  dsimp only
  rw [if_neg (by rintro rfl; simp at hreg), if_neg (by rintro rfl; simp at hreg), hv]

/-! ### Global registers (R25, R27) -/

theorem statusWord_sticky (sinkPresent : Bool) (sticky : BitVec 5) :
    (statusWord sinkPresent sticky).extractLsb' 0 5 = sticky :=
  BitVec.extractLsb'_append_eq_right

theorem statusWord_inert (sinkPresent : Bool) (sticky : BitVec 5) :
    (statusWord sinkPresent sticky).getLsbD 5 = !sinkPresent := by
  rw [statusWord, BitVec.getLsbD_append]
  cases sinkPresent <;> rfl

theorem toNat_append_eq_add {m n : Nat} (x : BitVec m) (y : BitVec n) :
    (x ++ y).toNat = x.toNat * 2 ^ n + y.toNat := by
  rw [BitVec.toNat_append, ← Nat.shiftLeft_add_eq_or_of_lt y.isLt, Nat.shiftLeft_eq]

theorem statusWord_lt (sinkPresent : Bool) (sticky : BitVec 5) :
    (statusWord sinkPresent sticky).toNat < 2 ^ 6 := by
  rw [statusWord, toNat_append_eq_add, toNat_append_eq_add]
  have := sticky.isLt
  cases sinkPresent <;> simp <;> omega

/-- The fields of G 0x07 as a number. -/
theorem toNat_sizes {depth next nosc : Nat} (hdepth : depth ≤ 65535) (hnext : next ≤ 255)
    (hnosc : nosc ≤ 255) :
    (BitVec.ofNat 16 depth ++ BitVec.ofNat 8 next ++ BitVec.ofNat 8 nosc).toNat =
      nosc + 2 ^ 8 * next + 2 ^ 16 * depth := by
  simp only [toNat_append_eq_add, BitVec.toNat_ofNat]
  omega

theorem memRead_global (s : State) (vsel : BitVec 16) (reg : Byte) :
    memRead s (regAddr 0xFF#8 vsel reg) = readGlobal s reg := by
  have h := memRead_of_global (s := s) (addrInst_regAddr 0xFF#8 vsel reg)
  rwa [addrReg_regAddr] at h

/-! ### Pools (R40) -/

theorem exists_instance_of_poolsSized {s : State} {k : Nat} {o : Osc} (h : PoolsSized s)
    (ho : s.oscs[k]? = some o) :
    ∃ c ∈ s.cfg.instances, nvoicesOf s k = o.voices.length ∧ c.nvoices = o.voices.length := by
  have hk : (s.oscs.map fun o => o.voices.length)[k]? = some o.voices.length := by simp [ho]
  rw [h, List.getElem?_map, Option.map_eq_some_iff] at hk
  obtain ⟨c, hc, hlen⟩ := hk
  exact ⟨c, List.mem_of_getElem? hc, by simp [nvoicesOf, hc, hlen], hlen⟩

/-! ### A legal WRITE_REG and the reads after it (R150, R152) -/

theorem modifyOsc_eq_set {s : State} {k : Nat} {o : Osc} (f : Osc → Osc) (ho : s.oscs[k]? = some o) :
    modifyOsc k f s = { s with oscs := s.oscs.set k (f o) } := by
  rw [modifyOsc, List.modify_eq_set_getElem?, ho]
  rfl

theorem readOsc_setParam {nv vsel : Nat} {o : Osc} {r : ParamReg} {x : Word} (reg : Byte)
    (hx : legalValue r x = true) :
    readOsc nv { o with params := setParam o.params r x } vsel reg =
      if reg = paramNumber r then x else readOsc nv o vsel reg := by
  split
  · next hreg =>
    rw [hreg, readOsc_of_paramReg (paramReg?_paramNumber r), getParam_setParam_self hx]
  · next hreg =>
    cases hr : paramReg? reg with
    | none => simp only [readOsc, hr, activeCount]
    | some r' =>
      have hne : r' ≠ r := fun h => hreg (paramReg?_eq_some_iff.mp (h ▸ hr))
      rw [readOsc_of_paramReg hr, readOsc_of_paramReg hr, getParam_setParam_of_ne hne]

theorem memRead_modifyOsc_self {s : State} {a : Word} {o : Osc} {f : Osc → Osc}
    (hlt : (addrInst a).toNat < s.cfg.nosc) (hnosc : s.cfg.nosc ≤ 255)
    (ho : s.oscs[(addrInst a).toNat]? = some o) : memRead (modifyOsc (addrInst a).toNat f s) a =
      readOsc (nvoicesOf s (addrInst a).toNat) (f o) (addrVsel a).toNat (addrReg a) :=
  memRead_of_inst hlt hnosc (by simp [ho])

/-- A change of oscillator k leaves the reads of every other address. -/
theorem memRead_modifyOsc_of_ne {s : State} {k : Nat} {f : Osc → Osc} {a : Word}
    (h : (addrInst a).toNat ≠ k) : memRead (modifyOsc k f s) a = memRead s a := by
  have hk : (modifyOsc k f s).oscs[(addrInst a).toNat]? = s.oscs[(addrInst a).toNat]? := by
    simp [Ne.symm h]
  simp only [memRead, hk]
  rfl

theorem execWriteReg_legal {s : State} {inst : Byte} {value : Word} {o : Osc} (r : ParamReg)
    (hlt : inst.toNat < s.cfg.nosc) (hnosc : s.cfg.nosc ≤ 255) (ho : s.oscs[inst.toNat]? = some o)
    (hvalue : legalValue r value = true) :
    ∃ t, exec (.writeReg inst (paramNumber r) value) s = .next t ∧
      t = { s with oscs := s.oscs.set inst.toNat { o with params := setParam o.params r value } } ∧
      ∀ a, memRead t a = if addrInst a = inst ∧ addrReg a = paramNumber r then value
        else memRead s a := by
  have hinst : inst ≠ globalInst := by rintro rfl; simp [globalInst] at hlt; omega
  refine ⟨modifyOsc inst.toNat (fun o => { o with params := setParam o.params r value }) s, ?_,
    modifyOsc_eq_set _ ho, fun a => ?_⟩
  · simp [exec, execWriteReg, hinst, instInRange, hlt, writeInstance, hvalue]
  · by_cases ha : addrInst a = inst
    · subst ha
      simp only [memRead_modifyOsc_self hlt hnosc ho, memRead_of_inst hlt hnosc ho,
        readOsc_setParam _ hvalue, true_and]
    · rw [memRead_modifyOsc_of_ne fun h => ha (BitVec.eq_of_toNat_eq h), if_neg fun h => ha h.1]

end Sys2Proof.Machine

namespace Sys2Proof.Proofs
open Machine

/-- Settles O8: `setParam` changes the one register that has the written number, and reads follow. -/
theorem writeRegThenReadGivesValue : Obligations.WriteRegThenReadGivesValue := by
  intro s inst value o hlt hnosc ho
  dsimp only
  refine ⟨execWriteReg_legal .delay hlt hnosc ho, execWriteReg_legal .attack hlt hnosc ho,
    execWriteReg_legal .hold hlt hnosc ho, execWriteReg_legal .decay hlt hnosc ho,
    execWriteReg_legal .sustain hlt hnosc ho, execWriteReg_legal .release hlt hnosc ho, ?_,
    execWriteReg_legal .pulseWidth hlt hnosc ho, execWriteReg_legal .unisonCount hlt hnosc ho,
    execWriteReg_legal .detuneDepth hlt hnosc ho, execWriteReg_legal .phaseSpread hlt hnosc ho,
    execWriteReg_legal .stereoWidth hlt hnosc ho⟩
  intro hvalue
  have hwrite := execWriteReg_legal .waveform hlt hnosc ho hvalue
  obtain ⟨w, rfl⟩ := exists_waveformCode_eq (of_decide_eq_true hvalue)
  cases w <;> exact hwrite

/-- Settles O20: each register as `readGlobal` gives it, and the widths of R4's parameters. -/
theorem globalRegistersRead : Obligations.GlobalRegistersRead := by
  intro s vsel hwf
  obtain ⟨hnosc, hnext, hfifo, hblock⟩ := bounds_of_wellFormed hwf
  simp only [memRead_global]
  refine ⟨statusWord_sticky .., statusWord_inert .., statusWord_lt .., rfl, rfl, rfl, rfl, ?_,
    toNat_sizes hfifo hnext hnosc, ?_⟩
  · exact (BitVec.extractLsb'_append_extractLsb'_eq_extractLsb' (start₁ := 0) (len₁ := 32) rfl).trans
      BitVec.extractLsb'_eq_self
  · exact (BitVec.toNat_ofNat ..).trans (Nat.mod_eq_of_lt (by omega))

/-- Settles O24: the numbers below 0x80 read the oscillator, the others the window of its voice. -/
theorem voiceWindowReadsFields : Obligations.VoiceWindowReadsFields := by
  intro s inst vsel o v hwf hsized hlt ho hv
  obtain ⟨hnosc, -⟩ := bounds_of_wellFormed hwf
  obtain ⟨c, hc, hnv, hlen⟩ := exists_instance_of_poolsSized hsized ho
  have hsize : o.voices.length ≤ 65535 :=
    hlen ▸ nvoices_le_of_wellFormed (instanceWellFormed_of_wellFormed hwf hc)
  have hread : ∀ reg,
      memRead s (regAddr inst vsel reg) = readOsc o.voices.length o vsel.toNat reg := by
    intro reg
    have h := memRead_of_inst (a := regAddr inst vsel reg) (o := o) (by simpa) hnosc (by simpa)
    simpa [hnv] using h
  have hwindow : ∀ reg : Byte, 0x80 ≤ reg.toNat →
      memRead s (regAddr inst vsel reg) = voiceField v reg := fun reg hreg =>
    (hread reg).trans (readOsc_of_window hreg hv)
  refine ⟨hread _, hread _, hread _, hread _, hread _, hread _, hread _, hread _, hread _, hread _,
    hread _, hread _, hwindow _ (by decide), hwindow _ (by decide), hwindow _ (by decide), ?_,
    hwindow _ (by decide), hwindow _ (by decide), hwindow _ (by decide), hwindow _ (by decide),
    hwindow _ (by decide), ?_, ?_⟩
  · rw [hwindow _ (by decide)]
    exact BitVec.toNat_setWidth_of_le (by norm_num)
  · rw [hread]
    exact (BitVec.toNat_ofNat ..).trans (Nat.mod_eq_of_lt (by omega))
  · rw [hread]
    have hactive : activeCount o ≤ o.voices.length := List.countP_le_length
    exact (BitVec.toNat_ofNat ..).trans (Nat.mod_eq_of_lt (by omega))

/-- Settles O37, by evaluating the reads of the reset state. -/
theorem defaultResetReads : Obligations.DefaultResetReads := by
  unfold Obligations.DefaultResetReads
  decide +kernel

end Sys2Proof.Proofs
end

section
/-!
The port operations PUSH and READ (R77, R81, R271, R272), the reads that VSEL does not reach or that give 0
(R41, R72, R74), and the order of the drain (R82).
-/
namespace Sys2Proof.Machine

/-! ### The next port operation (R80) -/

theorem step_of_pending {op : PortOp} {ops : List PortOp} {s : State}
    (hwf : configWellFormed s.cfg = true) :
    step { s with pending := op :: ops } = portStep op { s with pending := ops } := by
  rw [step, if_pos hwf]
  rfl

/-! ### What the FIFO and the sticky bits show (R25) -/

/-- Only STATUS and FIFO_LEVEL show the sticky bits and the FIFO. -/
theorem readGlobal_fifo_sticky {s : State} (ws : List CmdWord) (bits : BitVec 5) {reg : Byte}
    (hstatus : reg ≠ 0x00#8) (hlevel : reg ≠ 0x01#8) :
    readGlobal { s with fifo := ws, sticky := bits } reg = readGlobal s reg := by
  unfold readGlobal
  split
  · next h => exact absurd (BitVec.eq_of_toNat_eq h) hstatus
  · next h => exact absurd (BitVec.eq_of_toNat_eq h) hlevel
  all_goals rfl

theorem memRead_fifo_sticky {s : State} (ws : List CmdWord) (bits : BitVec 5) {a : Word}
    (h : ¬(addrInst a = globalInst ∧ (addrReg a = 0x00#8 ∨ addrReg a = 0x01#8))) :
    memRead { s with fifo := ws, sticky := bits } a = memRead s a := by
  by_cases hglobal : addrInst a = globalInst
  · rw [memRead_of_global hglobal, memRead_of_global hglobal]
    exact readGlobal_fifo_sticky ws bits (fun h0 => h ⟨hglobal, .inl h0⟩) fun h1 =>
      h ⟨hglobal, .inr h1⟩
  · rw [memRead, memRead, if_neg hglobal, if_neg hglobal]
    rfl

/-- A PUSH changes the FIFO and the sticky bits only (R271). -/
theorem pushStep_frame (w : CmdWord) (s : State) : pushStep w s =
    { s with fifo := (pushStep w s).fifo, sticky := (pushStep w s).sticky } := by
  unfold pushStep
  split <;> rfl

/-! ### Reads of an oscillator without a register (R41, R72, R74) -/

theorem paramReg?_eq_none {reg : Byte} (h : 0x0C ≤ reg.toNat) : paramReg? reg = none := by
  rw [Option.eq_none_iff_forall_ne_some]
  intro r hr
  rw [paramReg?_eq_some_iff] at hr
  cases r <;> simp [hr, paramNumber] at h

theorem voiceField_eq_zero {reg : Byte} (v : Voice) (h : reg.toNat < 0x80 ∨ 0x89 ≤ reg.toNat) :
    voiceField v reg = 0#32 := by
  unfold voiceField
  split
  case h_10 => rfl
  all_goals omega

section
variable {nv vsel : Nat} {o : Osc} {reg : Byte}

/-- The numbers that are neither a writable register nor NVOICES nor ACTIVE_COUNT read the voice VSEL
names, if there is one. -/
theorem readOsc_of_voice (hparam : paramReg? reg = none) (hnv : reg ≠ 0x0C#8)
    (hactive : reg ≠ 0x0D#8) :
    readOsc nv o vsel reg = (o.voices[vsel]?).elim 0#32 (voiceField · reg) := by
  rw [readOsc, hparam]
  dsimp only
  rw [if_neg hnv, if_neg hactive]
  cases o.voices[vsel]? <;> rfl

theorem readOsc_outside_window (hparam : paramReg? reg = none) (hnv : reg ≠ 0x0C#8)
    (hactive : reg ≠ 0x0D#8) (h : reg.toNat < 0x80 ∨ 0x89 ≤ reg.toNat) :
    readOsc nv o vsel reg = 0#32 := by
  rw [readOsc_of_voice hparam hnv hactive]
  cases o.voices[vsel]? with
  | none => rfl
  | some v => exact voiceField_eq_zero v h

theorem readOsc_past_pool (hreg : 0x80 ≤ reg.toNat) (hvsel : o.voices.length ≤ vsel) :
    readOsc nv o vsel reg = 0#32 := by
  rw [readOsc_of_voice (paramReg?_eq_none (by omega)) (by rintro rfl; simp at hreg)
    (by rintro rfl; simp at hreg), List.getElem?_eq_none hvsel]
  rfl

/-- No register below 0x80 depends on VSEL. -/
theorem readOsc_vsel (vsel' : Nat) (hreg : reg.toNat < 0x80) :
    readOsc nv o vsel reg = readOsc nv o vsel' reg := by
  cases hparam : paramReg? reg with
  | some r => rw [readOsc_of_paramReg hparam, readOsc_of_paramReg hparam]
  | none =>
    by_cases hnv : reg = 0x0C#8
    · subst hnv; rfl
    by_cases hactive : reg = 0x0D#8
    · subst hactive; rfl
    rw [readOsc_outside_window hparam hnv hactive (.inl hreg),
      readOsc_outside_window hparam hnv hactive (.inl hreg)]

end

theorem memRead_of_instOutOfRange {s : State} {a : Word} (hinst : addrInst a ≠ globalInst)
    (h : s.cfg.nosc ≤ (addrInst a).toNat) : memRead s a = 0#32 := by
  have hrange : instInRange (addrInst a) s = false := decide_eq_false (by omega)
  rw [memRead, if_neg hinst, hrange]
  rfl

theorem memRead_eq_zero_of_readOsc {s : State} {a : Word} (hinst : addrInst a ≠ globalInst)
    (h : ∀ nv o, s.oscs[(addrInst a).toNat]? = some o →
      readOsc nv o (addrVsel a).toNat (addrReg a) = 0#32) : memRead s a = 0#32 := by
  rw [memRead, if_neg hinst]
  cases ho : s.oscs[(addrInst a).toNat]? with
  | none => simp
  | some o => simp [h _ o ho]

theorem readGlobal_eq_zero (s : State) {reg : Byte} (h : 0x09 ≤ reg.toNat) :
    readGlobal s reg = 0#32 := by
  unfold readGlobal
  split
  case h_10 => rfl
  all_goals omega

/-! ### Commands and the FIFO (R82, R240) -/

section
variable (ws : List CmdWord) (s : State)

@[simp] theorem instInRange_setFifo (inst : Byte) :
    instInRange inst (setFifo ws s) = instInRange inst s := rfl

theorem keyOnInstance_setFifo (k : Nat) (key vel : Byte) :
    keyOnInstance k key vel (setFifo ws s) = setFifo ws (keyOnInstance k key vel s) := by
  unfold keyOnInstance
  rw [setFifo_oscs]
  cases s.oscs[k]? with
  | none => rfl
  | some o =>
    dsimp only
    split <;> rfl

theorem writeGlobal_setFifo (reg : Byte) (value : Word) :
    writeGlobal reg value (setFifo ws s) = setFifo ws (writeGlobal reg value s) := by
  unfold writeGlobal
  split
  · split <;> rfl
  · rfl

theorem writeInstance_setFifo (k : Nat) (reg : Byte) (value : Word) :
    writeInstance k reg value (setFifo ws s) = setFifo ws (writeInstance k reg value s) := by
  unfold writeInstance
  cases paramReg? reg with
  | none => rfl
  | some r =>
    dsimp only
    split <;> rfl

end

/-- No command reads the FIFO. -/
theorem exec_setFifo {i : Instr} {s t : State} (ws : List CmdWord) (h : exec i s = .next t) :
    exec i (setFifo ws s) = .next (setFifo ws t) := by
  cases i with
  | nop => cases h; rfl
  | keyOn inst key vel =>
    simp only [exec, execKeyOn, instInRange_setFifo, keyOnInstance_setFifo] at h ⊢
    split at h <;> cases h
    · next hin => exact if_pos hin
    · next hout => exact if_neg hout
  | keyOff inst key =>
    simp only [exec, execKeyOff, instInRange_setFifo] at h ⊢
    split at h <;> cases h
    · next hin => exact if_pos hin
    · next hout => exact if_neg hout
  | writeReg inst reg value =>
    simp only [exec, execWriteReg, instInRange_setFifo, writeGlobal_setFifo,
      writeInstance_setFifo] at h ⊢
    split at h
    · next hglobal => cases h; exact if_pos hglobal
    · next hinst =>
      rw [if_neg hinst]
      split at h <;> cases h
      · next hin => exact if_pos hin
      · next hout => exact if_neg hout

theorem execWord_setFifo {w : CmdWord} {s t : State} (ws : List CmdWord)
    (h : execWord w s = .next t) : execWord w (setFifo ws s) = .next (setFifo ws t) := by
  unfold execWord at h ⊢
  split at h
  · exact exec_setFifo ws h
  · cases h; rfl

theorem execWord_completes (w : CmdWord) (s : State) : ∃ t, execWord w s = .next t := by
  unfold execWord
  split
  · exact exec_ne_stop _ s
  · exact ⟨_, rfl⟩

theorem drain_cons {w : CmdWord} {s t : State} (ws : List CmdWord) (h : execWord w s = .next t) :
    drain (w :: ws) s = drain ws (setFifo ws t) := by
  rw [drain, execWord_setFifo ws h]

/-- A drain of at least one word replaces the FIFO before it reads the state. -/
theorem drain_setFifo_congr {ws us vs : List CmdWord} (s : State) (h : ws = [] → us = vs) :
    drain ws (setFifo us s) = drain ws (setFifo vs s) := by
  cases ws with
  | nil => rw [h rfl]
  | cons w ws => rfl

end Sys2Proof.Machine

namespace Sys2Proof.Proofs
open Machine

/-- Settles O18: a PUSH changes the FIFO and the sticky bits, which only STATUS and FIFO_LEVEL show. -/
theorem pushedWordHasNoEffectYet : Obligations.PushedWordHasNoEffectYet := by
  intro s t w ops a hstep ha
  obtain ⟨hwf, -⟩ := step_cases hstep
  rw [step_of_pending hwf] at hstep
  cases hstep
  rw [pushStep_frame]
  exact memRead_fifo_sticky _ _ ha

/-- Settles O23: the address meets no oscillator, or a number without a register, or no voice. -/
theorem unmappedReadsGiveZero : Obligations.UnmappedReadsGiveZero := by
  intro s inst reg vsel hsized
  have hosc (h : inst ≠ 0xFF#8) : addrInst (regAddr inst vsel reg) ≠ globalInst :=
    (addrInst_regAddr ..).trans_ne h
  refine ⟨fun hinst h => ?_, fun hinst h => ?_, fun hinst h => ?_,
    fun c hinst hc hvsel hreg => ?_⟩
  · exact memRead_of_instOutOfRange (hosc hinst) (by simpa using h)
  · rw [hinst, memRead_global, readGlobal_eq_zero s h]
  · refine memRead_eq_zero_of_readOsc (hosc hinst) fun nv o _ => ?_
    rw [addrReg_regAddr]
    exact readOsc_outside_window (paramReg?_eq_none (by omega)) (by rintro rfl; simp at h)
      (by rintro rfl; simp at h) (by omega)
  · refine memRead_eq_zero_of_readOsc (hosc hinst) fun nv o ho => ?_
    rw [addrInst_regAddr] at ho
    obtain ⟨-, -, hnv, -⟩ := exists_instance_of_poolsSized hsized ho
    have hpool : o.voices.length = c.nvoices := by rw [← hnv]; simp [nvoicesOf, hc]
    rw [addrReg_regAddr, addrVsel_regAddr]
    exact readOsc_past_pool hreg (hpool ▸ hvsel)

/-- Settles O26, by induction on the first part of the queue: no command reads the FIFO, so a word does the
same whatever waits behind it. -/
theorem drainRunsInFifoOrder : Obligations.DrainRunsInFifoOrder := by
  intro xs ys s
  induction xs generalizing s with
  | nil => rfl
  | cons x xs ih =>
    obtain ⟨t, ht⟩ := execWord_completes x s
    rw [List.cons_append, drain_cons _ ht, drain_cons _ ht, ← ih]
    exact drain_setFifo_congr t fun h => by simp [List.append_eq_nil_iff.mp h]

/-- Settles O19: a READ answers `memRead`, which does not depend on the operations to come. -/
theorem readReturnsAndChangesNothing : Obligations.ReadReturnsAndChangesNothing :=
  fun _ _ _ hwf => step_of_pending hwf

/-- Settles O22: the global set has no VSEL, and no register of an oscillator below 0x80 reads a voice. -/
theorem vselIgnoredOutsideWindow : Obligations.VselIgnoredOutsideWindow := by
  rintro s inst reg v1 v2 (rfl | hreg)
  · rw [memRead_global, memRead_global]
  · have hosc : ∀ nv o, readOsc nv o v1.toNat reg = readOsc nv o v2.toNat reg :=
      fun _ _ => readOsc_vsel v2.toNat hreg
    simp only [memRead, addrInst_regAddr, addrVsel_regAddr, addrReg_regAddr, hosc]

end Sys2Proof.Proofs
end

section
/-!
The decoder and the encoder (30_encoding.md): the fields of a packed word, the eight bytes of a word, and the
command that each row of R96 gives.
-/
namespace Sys2Proof

/-! ### Fields of a packed word (R90) -/

section
variable (data : Word) (inst b a opc : Byte)

@[simp] theorem opcField_packFields : opcField (packFields data inst b a opc) = opc :=
  BitVec.extractLsb'_append_eq_right

@[simp] theorem aField_packFields : aField (packFields data inst b a opc) = a := by
  rw [aField, packFields, BitVec.extractLsb'_append_eq_of_le (by decide)]
  exact BitVec.extractLsb'_append_eq_right

@[simp] theorem bField_packFields : bField (packFields data inst b a opc) = b := by
  rw [bField, packFields, BitVec.extractLsb'_append_eq_of_le (by decide),
    BitVec.extractLsb'_append_eq_of_le (by decide)]
  exact BitVec.extractLsb'_append_eq_right

@[simp] theorem instField_packFields : instField (packFields data inst b a opc) = inst := by
  rw [instField, packFields, BitVec.extractLsb'_append_eq_of_le (by decide),
    BitVec.extractLsb'_append_eq_of_le (by decide), BitVec.extractLsb'_append_eq_of_le (by decide)]
  exact BitVec.extractLsb'_append_eq_right

@[simp] theorem dataField_packFields : dataField (packFields data inst b a opc) = data := by
  rw [dataField, packFields, BitVec.extractLsb'_append_eq_of_le (by decide),
    BitVec.extractLsb'_append_eq_of_le (by decide), BitVec.extractLsb'_append_eq_of_le (by decide)]
  exact BitVec.extractLsb'_append_eq_left

end

/-- The five fields are the whole word. -/
theorem packFields_fields (w : CmdWord) :
    packFields (dataField w) (instField w) (bField w) (aField w) (opcField w) = w := by
  simp only [packFields, dataField, instField, bField, aField, opcField]
  rw [BitVec.extractLsb'_append_extractLsb'_eq_extractLsb' (rfl : 32 = 24 + 8),
    BitVec.extractLsb'_append_extractLsb'_eq_extractLsb' (rfl : 24 = 16 + 8),
    BitVec.extractLsb'_append_extractLsb'_eq_extractLsb' (rfl : 16 = 8 + 8),
    BitVec.extractLsb'_append_extractLsb'_eq_extractLsb' (rfl : 8 = 0 + 8)]
  exact BitVec.extractLsb'_eq_self

theorem packFields_inj {data data' : Word} {inst inst' b b' a a' opc opc' : Byte} :
    packFields data inst b a opc = packFields data' inst' b' a' opc' ↔
      data = data' ∧ inst = inst' ∧ b = b' ∧ a = a' ∧ opc = opc' := by
  constructor
  · intro h
    exact ⟨by simpa using congrArg dataField h, by simpa using congrArg instField h,
      by simpa using congrArg bField h, by simpa using congrArg aField h,
      by simpa using congrArg opcField h⟩
  · rintro ⟨rfl, rfl, rfl, rfl, rfl⟩
    rfl

theorem packFields_and (data data' : Word) (inst inst' b b' a a' opc opc' : Byte) :
    packFields data inst b a opc &&& packFields data' inst' b' a' opc' =
      packFields (data &&& data') (inst &&& inst') (b &&& b') (a &&& a') (opc &&& opc') := by
  simp only [packFields, ← BitVec.and_append]

/-! ### Commands and words (R96, R105) -/

theorem decodeWord_encode (i : Instr) : decodeWord (encode i) = .ok i := by
  cases i <;> simp [decodeWord, encode]

/-- A word decodes to a command exactly when it is that command's word. -/
theorem decodeWord_eq_ok_iff {w : CmdWord} {i : Instr} : decodeWord w = .ok i ↔ w = encode i := by
  refine ⟨fun h => ?_, fun h => h ▸ decodeWord_encode i⟩
  rw [← packFields_fields w]
  unfold decodeWord at h
  split_ifs at h with hopc hzero hopc hzero hopc hzero hopc hzero <;> cases h <;> simp [encode, *]

/-- A row's test of the opcode and the must-be-zero fields, as match and mask of the word. -/
theorem and_mask_eq_iff {w : CmdWord} {mdata data : Word} {minst inst mb b ma a mopc opc : Byte} :
    w &&& packFields mdata minst mb ma mopc = packFields data inst b a opc ↔
      dataField w &&& mdata = data ∧ instField w &&& minst = inst ∧ bField w &&& mb = b ∧
        aField w &&& ma = a ∧ opcField w &&& mopc = opc := by
  conv_lhs => rw [← packFields_fields w, packFields_and]
  exact packFields_inj

section
variable {w : CmdWord}

theorem exists_decodeWord_keyOn_iff : (∃ k key vel, decodeWord w = .ok (.keyOn k key vel)) ↔
    w &&& 0xFFFFFFFF000000FF#64 = 0x0000000000000001#64 := by
  simp only [decodeWord_eq_ok_iff]
  constructor
  · rintro ⟨k, key, vel, rfl⟩
    exact Laws.RowMatch.keyOn k key vel
  · intro h
    have hrow := and_mask_eq_iff.mp (show w &&& packFields (BitVec.allOnes 32) 0#8 0#8 0#8
      (BitVec.allOnes 8) = packFields 0#32 0#8 0#8 0#8 0x01#8 from h)
    simp only [BitVec.and_allOnes] at hrow
    obtain ⟨hdata, -, -, -, hopc⟩ := hrow
    exact ⟨_, _, _, by rw [encode, ← hdata, ← hopc, packFields_fields]⟩

theorem exists_decodeWord_keyOff_iff : (∃ k key, decodeWord w = .ok (.keyOff k key)) ↔
    w &&& 0xFFFFFFFF00FF00FF#64 = 0x0000000000000002#64 := by
  simp only [decodeWord_eq_ok_iff]
  constructor
  · rintro ⟨k, key, rfl⟩
    exact Laws.RowMatch.keyOff k key
  · intro h
    have hrow := and_mask_eq_iff.mp (show w &&& packFields (BitVec.allOnes 32) 0#8 (BitVec.allOnes 8)
      0#8 (BitVec.allOnes 8) = packFields 0#32 0#8 0#8 0#8 0x02#8 from h)
    simp only [BitVec.and_allOnes] at hrow
    obtain ⟨hdata, -, hb, -, hopc⟩ := hrow
    refine ⟨instField w, aField w, ?_⟩
    rw [encode, ← hdata, ← hopc, ← hb, packFields_fields]

theorem exists_decodeWord_writeReg_iff : (∃ k reg value, decodeWord w = .ok (.writeReg k reg value)) ↔
    w &&& 0x0000000000FF00FF#64 = 0x0000000000000003#64 := by
  simp only [decodeWord_eq_ok_iff]
  constructor
  · rintro ⟨k, reg, value, rfl⟩
    exact Laws.RowMatch.writeReg k reg value
  · intro h
    have hrow := and_mask_eq_iff.mp (show w &&& packFields 0#32 0#8 (BitVec.allOnes 8) 0#8
      (BitVec.allOnes 8) = packFields 0#32 0#8 0#8 0#8 0x03#8 from h)
    simp only [BitVec.and_allOnes] at hrow
    obtain ⟨-, -, hb, -, hopc⟩ := hrow
    refine ⟨instField w, aField w, dataField w, ?_⟩
    rw [encode, ← hopc, ← hb, packFields_fields]

end

/-! ### The bytes of a word (R75) -/

/-- Bit i of the word of a list of bytes is bit i % 8 of byte i / 8. -/
theorem getLsbD_wordOfBytes (bs : List Byte) {i : Nat} (hi : i < 64) :
    (wordOfBytes bs).getLsbD i = (bs.getD (i / 8) 0#8).getLsbD (i % 8) := by
  induction bs generalizing i with
  | nil => simp [wordOfBytes]
  | cons b bs ih =>
    rw [wordOfBytes, BitVec.getLsbD_or, BitVec.getLsbD_shiftLeft]
    by_cases hlow : i < 8
    · simp [hlow, hi, Nat.div_eq_of_lt hlow, Nat.mod_eq_of_lt hlow]
    · have hb : (b.zeroExtend 64).getLsbD i = false := by
        simp [BitVec.getLsbD_of_ge b i (by omega)]
      rw [hb, ih (by omega), show i / 8 = (i - 8) / 8 + 1 by omega,
        show i % 8 = (i - 8) % 8 by omega]
      simp [hlow, hi]

theorem length_bytesOfWord (w : CmdWord) : (bytesOfWord w).length = 8 := by simp [bytesOfWord]

theorem wordOfBytes_bytesOfWord (w : CmdWord) : wordOfBytes (bytesOfWord w) = w := by
  apply BitVec.eq_of_getLsbD_eq
  intro i hi
  have hbyte : (bytesOfWord w).getD (i / 8) 0#8 = w.extractLsb' (8 * (i / 8)) 8 := by
    simp [bytesOfWord, show i / 8 < 8 by omega]
  rw [getLsbD_wordOfBytes _ hi, hbyte, BitVec.getLsbD_extractLsb', Nat.div_add_mod]
  simp [Nat.mod_lt]

theorem decode_bytesOfWord_append (w : CmdWord) (rest : List Byte) :
    decode (bytesOfWord w ++ rest) = (decodeWord w).map (·, rest) := by
  have hlen : ¬(bytesOfWord w ++ rest).length < 8 := by simp [length_bytesOfWord]
  rw [decode, if_neg hlen, List.take_left' (length_bytesOfWord w),
    List.drop_left' (length_bytesOfWord w), wordOfBytes_bytesOfWord]
  cases decodeWord w <;> rfl

theorem decodeTableWord_eq_some_iff {nbits w : Nat} {i : Instr} : decodeTableWord nbits w = some i ↔
    decodeWord (BitVec.ofNat 64 (w % 2 ^ nbits)) = .ok i := by
  rw [decodeTableWord, ← List.append_nil (bytesOfWord _), decode_bytesOfWord_append]
  cases decodeWord (BitVec.ofNat 64 (w % 2 ^ nbits)) <;> simp [Except.map]

end Sys2Proof

namespace Sys2Proof.Proofs

/-- Settles O1: the bytes rebuild the word, and a packed word's fields name its command. -/
theorem decodeEncodeRoundTrip : Obligations.DecodeEncodeRoundTrip := by
  intro i rest
  rw [decode_bytesOfWord_append, decodeWord_encode]
  rfl

/-- Settles O2: each row fixes the fields its command does not hold. -/
theorem encodeDecodeRoundTrip : Obligations.EncodeDecodeRoundTrip :=
  fun _ _ h => (decodeWord_eq_ok_iff.mp h).symm

/-- Settles O3, from each row's match and mask; a word is rejected when no command is left. -/
theorem decodeFollowsMatchAndMask : Obligations.DecodeFollowsMatchAndMask := by
  intro w
  have hnop : decodeWord w = .ok .nop ↔ w = 0#64 := decodeWord_eq_ok_iff
  refine ⟨hnop, exists_decodeWord_keyOn_iff, exists_decodeWord_keyOff_iff,
    exists_decodeWord_writeReg_iff, ?_⟩
  rw [ne_eq, ne_eq, ne_eq, ne_eq, ← hnop, ← exists_decodeWord_keyOn_iff,
    ← exists_decodeWord_keyOff_iff, ← exists_decodeWord_writeReg_iff]
  cases decodeWord w with
  | error e => simp
  | ok i => cases i <;> simp

/-- Settles O4: each example word is the word of the command beside it. -/
theorem exampleWordsDecode : Obligations.ExampleWordsDecode := by
  simp only [Obligations.ExampleWordsDecode, decodeWord_eq_ok_iff]
  decide

end Sys2Proof.Proofs
end

section
/-!
What executing one drained word does to STATUS (R97, R98, R121, R150, R290), and a BLOCK by the head of its
FIFO (R240, R248).
-/
namespace Sys2Proof.Machine

/-! ### Refused commands (R98, R100, R150) -/

/-- A command whose INST its row does not allow raises BadCmd (R98 step 2). -/
theorem exec_of_instNotAllowed {i : Instr} {s : State} (h : i.wellFormed s.cfg.nosc = false) :
    exec i s = .next (raise .badCmd s) := by
  cases i with
  | nop => cases h
  | keyOn inst key vel => exact if_neg (ne_true_of_eq_false h)
  | keyOff inst key => exact if_neg (ne_true_of_eq_false h)
  | writeReg inst reg value =>
    rw [Instr.wellFormed, Bool.or_eq_false_iff, beq_eq_false_iff_ne] at h
    obtain ⟨hrange, hglobal⟩ := h
    exact (if_neg hglobal).trans (if_neg (ne_true_of_eq_false hrange))

/-- A word that is no command, or one whose INST its row does not allow, raises BadCmd (R97, R121). -/
theorem execWord_of_badWord {w : CmdWord} {s : State}
    (h : ∀ i, decodeWord w = .ok i → i.wellFormed s.cfg.nosc = false) :
    execWord w s = .next (raise .badCmd s) := by
  unfold execWord
  split
  · next i hi => exact exec_of_instNotAllowed (h i hi)
  · rfl

theorem exec_writeReg_global (reg : Byte) (value : Word) (s : State) :
    exec (.writeReg globalInst reg value) s = .next (writeGlobal reg value s) := by
  rw [exec, execWriteReg, if_pos rfl]

theorem exec_writeReg_instance {inst : Byte} {s : State} (reg : Byte) (value : Word)
    (hlt : inst.toNat < s.cfg.nosc) (hnosc : s.cfg.nosc ≤ 255) :
    exec (.writeReg inst reg value) s = .next (writeInstance inst.toNat reg value s) := by
  have hinst : inst ≠ globalInst := by
    rintro rfl
    exact absurd (hlt.trans_le hnosc) (by decide)
  exact (if_neg hinst).trans (if_pos (decide_eq_true hlt))

theorem writeInstance_of_reservedReg {k : Nat} {reg : Byte} {value : Word} {s : State}
    (h : paramReg? reg = none) : writeInstance k reg value s = raise .badReg s := by
  rw [writeInstance, h]

theorem writeInstance_of_illegalValue {k : Nat} {reg : Byte} {value : Word} {s : State} {r : ParamReg}
    (h : paramReg? reg = some r) (hvalue : legalValue r value = false) :
    writeInstance k reg value s = raise .badVal s := by
  rw [writeInstance, h]
  exact if_neg (ne_true_of_eq_false hvalue)

theorem paramNumber_lt (r : ParamReg) : (paramNumber r).toNat < 0x0C := by
  cases r <;> decide

theorem exists_paramReg?_iff {reg : Byte} : (∃ r, paramReg? reg = some r) ↔ reg.toNat < 0x0C := by
  constructor
  · rintro ⟨r, hr⟩
    rw [paramReg?_eq_some_iff.mp hr]
    exact paramNumber_lt r
  · intro h
    unfold paramReg?
    split
    case h_13 =>
      simp only [imp_false] at *
      omega
    all_goals exact ⟨_, rfl⟩

/-! ### The sticky bits after one word (R293) -/

theorem errorCode_lt (e : ErrorEvent) : errorCode e < 5 := by
  cases e <;> decide

theorem exec_sticky {i : Instr} {s t : State} (h : exec i s = .next t) :
    t.sticky = s.sticky ∨ ∃ e, t.sticky = setSticky s.sticky e := by
  obtain rfl | ⟨e, rfl⟩ | ⟨_, -, rfl⟩ | ⟨_, _, _, -, rfl⟩ | ⟨_, _, rfl⟩ | ⟨k, key, vel, rfl⟩ :=
    exec_cases h
  · exact .inl rfl
  · exact .inr ⟨e, rfl⟩
  · exact .inl rfl
  · exact .inl rfl
  · exact .inl rfl
  · obtain ⟨-, heq⟩ | ⟨_, _, -, rfl, heq | heq⟩ := keyOnInstance_cases k key vel s <;> rw [heq]
    · exact .inl rfl
    · exact .inl rfl
    · exact .inr ⟨.poolDrop, rfl⟩

theorem execWord_sticky {w : CmdWord} {s t : State} (h : execWord w s = .next t) :
    t.sticky = s.sticky ∨ ∃ e, t.sticky = setSticky s.sticky e := by
  obtain ⟨i, -, hi⟩ | rfl := execWord_cases h
  · exact exec_sticky hi
  · exact .inr ⟨.badCmd, rfl⟩

/-! ### A BLOCK by the head of its FIFO (R240, R248) -/

theorem execWord_of_decodeWord {w : CmdWord} {i : Instr} {s : State} (h : decodeWord w = .ok i) :
    execWord w s = exec i s := by
  rw [execWord, h]

theorem step_block {s : State} {n : Word} {ops : List PortOp} (hwf : configWellFormed s.cfg = true)
    (hsink : s.cfg.sinkPresent = true) (hn : n.toNat ≤ s.cfg.maxBlock) :
    step { s with pending := .block n :: ops } = blockStep n { s with pending := ops } := by
  rw [step_of_pending hwf, portStep, sinkStep, if_neg (by simp [hsink]), if_neg (by simpa using hn)]

theorem blockStep_of_fifo_nil {s : State} (n : Word) (h : s.fifo = []) :
    blockStep n s = .next (renderBlock n s) := by
  rw [blockStep, h]
  rfl

/-- A BLOCK takes the head word, executes it, and goes on as the BLOCK of the state that leaves. -/
theorem blockStep_cons {s t : State} {w : CmdWord} {ws : List CmdWord} (n : Word)
    (h : execWord w (setFifo ws s) = .next t) : blockStep n (setFifo (w :: ws) s) = blockStep n t := by
  have hdrain : drain (w :: ws) (setFifo (w :: ws) s) = drain ws t := by
    rw [drain]
    exact h ▸ rfl
  have hfifo : t.fifo = ws := execWord_fifo h
  rw [blockStep, blockStep, setFifo_fifo, hdrain, hfifo]

/-- A BLOCK operation taken with a word at the head of the FIFO. -/
theorem step_block_cons {s t : State} {w : CmdWord} {ws : List CmdWord} {n : Word} {ops : List PortOp}
    (hwf : configWellFormed s.cfg = true) (hsink : s.cfg.sinkPresent = true)
    (hn : n.toNat ≤ s.cfg.maxBlock) (h : execWord w { s with fifo := ws, pending := ops } = .next t) :
    step { s with fifo := w :: ws, pending := .block n :: ops } = blockStep n t :=
  (step_block (s := { s with fifo := w :: ws }) hwf hsink hn).trans
    (blockStep_cons (s := { s with pending := ops }) n h)

end Sys2Proof.Machine

namespace Sys2Proof.Proofs
open Machine

/-- Settles O13: a command raises at most one error, and so does a word that is none. -/
theorem oneWordSetsAtMostOneBit : Obligations.OneWordSetsAtMostOneBit := by
  intro s w
  obtain ⟨t, ht⟩ := execWord_completes w s
  refine ⟨t, ht, ?_⟩
  obtain hkept | ⟨e, hset⟩ := execWord_sticky ht
  · exact .inl hkept
  · exact .inr ⟨errorCode e, errorCode_lt e, hset⟩

/-- Settles O9: GLOBAL_VOLUME is the only register of the global set that WRITE_REG may write. -/
theorem writeRegGlobalVolume : Obligations.WriteRegGlobalVolume := by
  intro s reg value
  rw [show 0xFF#8 = globalInst from rfl, exec_writeReg_global]
  rfl

/-- Settles O10: the numbers below 0x0C are the writable registers, and each refusal raises one error. -/
theorem writeRegRefusalsSetOneBit : Obligations.WriteRegRefusalsSetOneBit := by
  intro s inst reg value hlt hnosc
  rw [exec_writeReg_instance reg value hlt hnosc]
  refine ⟨fun hreg => ?_, fun r hr hvalue => ?_, exists_paramReg?_iff.symm⟩
  · rw [writeInstance_of_reservedReg (paramReg?_eq_none hreg)]
    rfl
  · rw [writeInstance_of_illegalValue hr hvalue]
    rfl

/-- Settles O12: BAD_CMD is raised by a word without a command, and by a command for its INST. -/
theorem malformedWordSetsOnlyBadCmd : Obligations.MalformedWordSetsOnlyBadCmd :=
  fun _ _ h => execWord_of_badWord h

/-- Settles O25: a BLOCK executes the head word and goes on as the BLOCK of the state that leaves. -/
theorem stepRunsDecodedCommand : Obligations.StepRunsDecodedCommand := by
  refine ⟨fun s n ops hwf hsink hn => ?_, fun s t w ws n ops i hwf hsink hn hdecode _ ht => ?_,
    fun s w ws n ops hwf hsink hn hbad => ?_, fun s t nbits w i hwf hsink hdecode ht => ?_⟩
  · exact (step_block (s := { s with fifo := [] }) hwf hsink hn).trans (blockStep_of_fifo_nil n rfl)
  · have hfifo : t.fifo = ws := exec_fifo ht
    rw [step_block_cons hwf hsink hn ((execWord_of_decodeWord hdecode).trans ht), ← hfifo]
    rfl
  · exact step_block_cons hwf hsink hn
      (execWord_of_badWord (s := { s with fifo := ws, pending := ops }) hbad)
  · rw [decodeTableWord_eq_some_iff] at hdecode
    rw [← blockStep_of_fifo_nil 0#32 (exec_fifo ht)]
    exact step_block_cons hwf hsink (Nat.zero_le _) ((execWord_of_decodeWord hdecode).trans ht)

end Sys2Proof.Proofs
end

section
/-!
KEY_ON and KEY_OFF in closed form (R130 to R134, R140), and NOP (R125).
-/
namespace Sys2Proof.Machine

/-! ### The loop of KEY_ON by rank (R130, R133) -/

/-- The number of idle voices. -/
def idleCount (vs : List Voice) : Nat := vs.countP fun u => decide (u.stage = .idle)

/-- The number of idle voices below slot j; of an idle voice at j, its rank. -/
def idleRank (vs : List Voice) (j : Nat) : Nat := idleCount (vs.take j)

@[simp] theorem idleRank_zero (vs : List Voice) : idleRank vs 0 = 0 := by
  simp [idleRank, idleCount]

section
variable {v : Voice} (vs : List Voice)

theorem idleCount_cons_of_idle (h : v.stage = .idle) : idleCount (v :: vs) = idleCount vs + 1 := by
  simp [idleCount, h]

theorem idleCount_cons_of_active (h : v.stage ≠ .idle) : idleCount (v :: vs) = idleCount vs := by
  simp [idleCount, h]

theorem idleRank_cons_of_idle (h : v.stage = .idle) (j : Nat) :
    idleRank (v :: vs) (j + 1) = idleRank vs j + 1 :=
  idleCount_cons_of_idle _ h

theorem idleRank_cons_of_active (h : v.stage ≠ .idle) (j : Nat) :
    idleRank (v :: vs) (j + 1) = idleRank vs j :=
  idleCount_cons_of_active _ h

theorem firstIdle_cons_of_idle (h : v.stage = .idle) : firstIdle (v :: vs) = some 0 := by
  simp [firstIdle, isActive, List.findIdx?_cons, h]

theorem firstIdle_cons_of_active (h : v.stage ≠ .idle) :
    firstIdle (v :: vs) = (firstIdle vs).map (· + 1) := by
  simp [firstIdle, isActive, List.findIdx?_cons, h]

end

section
variable (p : Params) (key vel : Byte) (n : Nat)

/-- The loop passes an active voice by. -/
theorem placeFrom_cons_of_active (left i : Nat) {v : Voice} (vs : List Voice) (h : v.stage ≠ .idle) :
    placeFrom p key vel n left i (v :: vs) =
      (v :: (placeFrom p key vel n left i vs).1, (placeFrom p key vel n left i vs).2) := by
  induction left generalizing i vs with
  | zero => rfl
  | succ left ih =>
    rw [placeFrom, placeFrom, firstIdle_cons_of_active vs h]
    cases firstIdle vs with
    | none => rfl
    | some j => exact ih ..

/-- The loop puts its next position on an idle voice and goes on above it. -/
theorem placeFrom_cons_of_idle (left i : Nat) {v : Voice} (vs : List Voice) (h : v.stage = .idle) :
    placeFrom p key vel n (left + 1) i (v :: vs) =
      (placeUnison p key vel n i v :: (placeFrom p key vel n left (i + 1) vs).1,
        (placeFrom p key vel n left (i + 1) vs).2) := by
  rw [placeFrom, firstIdle_cons_of_idle vs h]
  exact placeFrom_cons_of_active _ _ _ _ _ _ _ (by simp [placeUnison, placeVoice])

/-- Each idle voice takes the position of its rank, as far as positions go. -/
theorem placeFrom_getElem? (left i : Nat) (vs : List Voice) (j : Nat) :
    (placeFrom p key vel n left i vs).1[j]? = vs[j]?.map fun v =>
      if v.stage = .idle ∧ idleRank vs j < left then placeUnison p key vel n (i + idleRank vs j) v
      else v := by
  induction vs generalizing left i j with
  | nil => cases left <;> simp [placeFrom, firstIdle]
  | cons v vs ih =>
    by_cases hidle : v.stage = .idle
    · cases left with
      | zero => simp [placeFrom]
      | succ left =>
        rw [placeFrom_cons_of_idle _ _ _ _ _ _ _ hidle]
        cases j with
        | zero => simp [hidle]
        | succ j =>
          simp only [List.getElem?_cons_succ, ih, idleRank_cons_of_idle _ hidle,
            Nat.add_lt_add_iff_right, Nat.add_right_comm i 1, Nat.add_assoc i]
    · rw [placeFrom_cons_of_active _ _ _ _ _ _ _ hidle]
      cases j with
      | zero => simp [hidle]
      | succ j => simp only [List.getElem?_cons_succ, ih, idleRank_cons_of_active _ hidle]

/-- A position is dropped when there are more positions than idle voices. -/
theorem placeFrom_dropped (left i : Nat) (vs : List Voice) :
    (placeFrom p key vel n left i vs).2 = decide (idleCount vs < left) := by
  induction vs generalizing left i with
  | nil => cases left <;> simp [placeFrom, firstIdle, idleCount]
  | cons v vs ih =>
    by_cases hidle : v.stage = .idle
    · cases left with
      | zero => simp [placeFrom]
      | succ left =>
        rw [placeFrom_cons_of_idle _ _ _ _ _ _ _ hidle, idleCount_cons_of_idle _ hidle]
        simp [ih]
    · rw [placeFrom_cons_of_active _ _ _ _ _ _ _ hidle, idleCount_cons_of_active _ hidle, ih]

end

/-! ### KEY_ON and KEY_OFF on a named oscillator (R98, R130, R140) -/

theorem keyOnPool_getElem? (key vel : Byte) (o : Osc) (j : Nat) :
    (keyOnPool key vel o).1[j]? = o.voices[j]?.map fun v =>
      if v.stage = .idle ∧ idleRank o.voices j < o.params.unisonCount.toNat then
        placeUnison o.params key vel o.params.unisonCount.toNat (idleRank o.voices j) v
      else v := by
  rw [keyOnPool, placeFrom_getElem?]
  simp only [Nat.zero_add]

/-- What the placing of each position keeps, a KEY_ON keeps of the whole pool. -/
theorem forall_voices_keyOnPool {P : Voice → Prop} {key vel : Byte} {o : Osc}
    (hplace : ∀ i < o.params.unisonCount.toNat, ∀ v, P v →
      P (placeUnison o.params key vel o.params.unisonCount.toNat i v))
    (h : ∀ v ∈ o.voices, P v) : ∀ v ∈ (keyOnPool key vel o).1, P v := by
  intro v hv
  obtain ⟨j, hj⟩ := List.mem_iff_getElem?.mp hv
  rw [keyOnPool_getElem?, Option.map_eq_some_iff] at hj
  obtain ⟨u, hu, rfl⟩ := hj
  have hPu : P u := h u (List.mem_of_getElem? hu)
  split
  · next hfits => exact hplace _ hfits.2 u hPu
  · exact hPu

theorem keyOnInstance_eq {s : State} {k : Nat} {o : Osc} (key vel : Byte) (ho : s.oscs[k]? = some o) :
    keyOnInstance k key vel s = { s with
      oscs := s.oscs.set k { o with voices := (keyOnPool key vel o).1 }
      sticky := if o.params.unisonCount.toNat ≤ idleCount o.voices then s.sticky
        else setSticky s.sticky .poolDrop } := by
  rw [keyOnInstance, ho]
  dsimp only
  rw [modifyOsc_eq_set _ ho, keyOnPool, placeFrom_dropped]
  by_cases hfits : o.params.unisonCount.toNat ≤ idleCount o.voices
  · rw [if_neg (by simpa using hfits), if_pos hfits]
  · rw [if_pos (by simpa using hfits), if_neg hfits]
    rfl

theorem exec_keyOn_of_lt {inst : Byte} {s : State} (key vel : Byte) (hlt : inst.toNat < s.cfg.nosc) :
    exec (.keyOn inst key vel) s = .next (keyOnInstance inst.toNat key vel s) :=
  if_pos (decide_eq_true hlt)

theorem exec_keyOff_of_lt {inst : Byte} {s : State} (key : Byte) (hlt : inst.toNat < s.cfg.nosc) :
    exec (.keyOff inst key) s = .next (modifyOsc inst.toNat
      (fun o => { o with voices := o.voices.map (releaseVoice s.cfg.keyOffReleasesIdle key) }) s) :=
  if_pos (decide_eq_true hlt)

end Sys2Proof.Machine

namespace Sys2Proof.Proofs
open Machine

/-- Settles O5: `execNop` answers its state. -/
theorem nopHasNoEffect : Obligations.NopHasNoEffect := fun _ => rfl

/-- Settles O6: the loop of R130 gives each idle voice the position of its rank. -/
theorem keyOnPlacesVoicesByRank : Obligations.KeyOnPlacesVoicesByRank := by
  intro s inst key vel o hlt ho n offset
  refine ⟨_, { o with voices := (keyOnPool key vel o).1 }, exec_keyOn_of_lt key vel hlt, rfl,
    placeFrom_length .., fun j v hv => ?_, keyOnInstance_eq key vel ho⟩
  rw [keyOnPool_getElem?, hv]
  rfl

/-- Settles O7: KEY_OFF maps `releaseVoice` over the pool of its oscillator. -/
theorem keyOffReleasesMatchingVoices : Obligations.KeyOffReleasesMatchingVoices := by
  intro s inst key o hlt ho
  refine ⟨_, { o with voices := o.voices.map (releaseVoice s.cfg.keyOffReleasesIdle key) },
    exec_keyOff_of_lt key hlt, rfl, List.length_map _, fun j v hv => ?_, modifyOsc_eq_set _ ho⟩
  rw [List.getElem?_map, hv]
  rfl

end Sys2Proof.Proofs
end

section
/-!
Bounds on rounded results (R8): rounding keeps the order to every finite value, whole numbers of 24 bits are
exact, and small values are rounded on a fine grid.
-/
namespace Sys2Proof.Machine

/-- Every finite value lies below the overflow threshold of `RoundsTo`. -/
theorem abs_val_lt_threshold {a : Word} (ha : isFinite a = true) :
    |(val a : ℝ)| < 2 ^ 128 - 2 ^ 103 := by
  have hmag := magBits_lt_infMag ha
  have hself := roundsMag_roundUnits (unitsOf (magBits a)) one_pos
  rw [roundUnits_unitsOf hmag, Nat.cast_one, div_one] at hself
  rw [val_eq_signed, abs_div, abs_signed, Nat.abs_cast, abs_of_pos (by positivity : (0 : ℝ) < 2 ^ 149)]
  exact hself.lt_threshold_iff.mpr hmag

/-! ### Whole numbers and the grid of small values -/

/-- A number of at most 24 bits, scaled by a power of two, is not rounded. -/
theorem roundInt_exact {z : Int} {e : Nat} (hz : z.natAbs ≤ 2 ^ 24) (he : e ≤ 149) (negZero : Bool) :
    isFinite (roundInt (z * 2 ^ e) negZero) = true ∧
      exactUnits (roundInt (z * 2 ^ e) negZero) = z * 2 ^ e := by
  have hpow : 2 ^ e ≤ 2 ^ 149 := Nat.pow_le_pow_right two_pos he
  obtain ⟨p, hp, hunits⟩ := exists_unitsOf_eq e hz
    ((Nat.mul_le_mul hz hpow).trans_lt (by norm_num))
  exact exactUnits_roundInt hp (by rw [hunits, Int.natAbs_mul, Int.natAbs_pow]; rfl) negZero

theorem i2f32_exact {z : Int} (hz : z.natAbs ≤ 2 ^ 24) :
    isFinite (i2f32 z) = true ∧ val (i2f32 z) = z := by
  obtain ⟨hfin, hunits⟩ := roundInt_exact hz le_rfl false
  refine ⟨hfin, ?_⟩
  rw [i2f32, val, hunits, Int.cast_mul, Int.cast_pow, Int.cast_ofNat,
    mul_div_cancel_right₀ _ (by positivity)]

/-- The multiples of 2^-14 up to 1024 are finite values. -/
theorem exists_val_eq_div {z : Int} (hz : z.natAbs ≤ 2 ^ 24) :
    ∃ c, isFinite c = true ∧ val c = z / 2 ^ 14 := by
  obtain ⟨hfin, hunits⟩ := roundInt_exact (e := 135) hz (by norm_num) false
  refine ⟨_, hfin, ?_⟩
  rw [val, hunits, Int.cast_mul, Int.cast_pow, Int.cast_ofNat,
    show (2 : ℚ) ^ 149 = 2 ^ 14 * 2 ^ 135 from pow_add 2 14 135, mul_div_mul_right _ _ (by positivity)]

end Sys2Proof.Machine

namespace Sys2Proof
open Machine

/-! ### Rounded results against finite values -/

section
variable {x : ℝ} {w : Word} (h : RoundsTo x w)
include h

/-- A rounded result is finite, or the infinity of its sign. -/
theorem RoundsTo.isFinite_or_infinity :
    isFinite w = true ∨ w = packSign (decide (x < 0)) infMag := by
  unfold RoundsTo at h
  split at h
  · exact .inl h.1
  · exact .inr h

theorem RoundsTo.isNaN_eq_false : isNaN w = false := by
  obtain hfin | rfl := h.isFinite_or_infinity
  · exact isNaN_of_isFinite hfin
  · simp [isNaN, magBits_packSign infMag_lt]

theorem RoundsTo.isFinite_of_abs_lt (hx : |x| < 2 ^ 128 - 2 ^ 103) : isFinite w = true := by
  rw [RoundsTo, if_pos hx] at h
  exact h.1

/-- What is no larger than a finite value does not overflow. -/
theorem RoundsTo.isFinite_of_abs_le {a : Word} (ha : isFinite a = true) (hx : |x| ≤ |(val a : ℝ)|) :
    isFinite w = true :=
  h.isFinite_of_abs_lt (hx.trans_lt (abs_val_lt_threshold ha))

/-- No finite value is nearer to x than its rounded result. -/
theorem RoundsTo.abs_sub_le {c : Word} (hw : isFinite w = true) (hc : isFinite c = true) :
    |(val w : ℝ) - x| ≤ |(val c : ℝ) - x| := by
  by_cases heq : val c = val w
  · rw [heq]
  unfold RoundsTo at h
  split at h
  · obtain hlt | ⟨htie, -⟩ := h.2 c hc heq
    · exact hlt.le
    · exact htie.le
  · rw [h, isFinite, magBits_packSign infMag_lt] at hw
    simp at hw

theorem RoundsTo.le_val {c : Word} (hw : isFinite w = true) (hc : isFinite c = true)
    (hx : (val c : ℝ) ≤ x) : val c ≤ val w := by
  by_contra hlt
  have hlt' : (val w : ℝ) < val c := by exact_mod_cast not_le.mp hlt
  have hnear := h.abs_sub_le hw hc
  rw [abs_of_nonpos (by linarith), abs_of_nonpos (by linarith)] at hnear
  linarith

theorem RoundsTo.val_le {c : Word} (hw : isFinite w = true) (hc : isFinite c = true)
    (hx : x ≤ (val c : ℝ)) : val w ≤ val c := by
  by_contra hlt
  have hlt' : (val c : ℝ) < val w := by exact_mod_cast not_le.mp hlt
  have hnear := h.abs_sub_le hw hc
  rw [abs_of_nonneg (by linarith), abs_of_nonneg (by linarith)] at hnear
  linarith

/-- What lies between two finite values is rounded to a value between them. -/
theorem RoundsTo.inRange32_of_mem_Icc {lo hi : Word} (hlo : isFinite lo = true)
    (hhi : isFinite hi = true) (hx : x ∈ Set.Icc (val lo : ℝ) (val hi)) :
    inRange32 lo hi w = true := by
  obtain ⟨hlox, hxhi⟩ := hx
  have hlow := (abs_lt.mp (abs_val_lt_threshold hlo)).1
  have hhigh := (abs_lt.mp (abs_val_lt_threshold hhi)).2
  have hw := h.isFinite_of_abs_lt (abs_lt.mpr ⟨hlow.trans_le hlox, hxhi.trans_lt hhigh⟩)
  exact (inRange32_iff hlo hhi).mpr ⟨hw, h.le_val hw hlo hlox, h.val_le hw hhi hxhi⟩

/-- Up to 512 a rounded result is off by at most 2^-14. -/
theorem RoundsTo.abs_sub_le_grid (hx : |x| ≤ 512) :
    isFinite w = true ∧ |(val w : ℝ) - x| ≤ 1 / 2 ^ 14 := by
  have hw : isFinite w = true := h.isFinite_of_abs_lt (hx.trans_lt (by norm_num))
  obtain ⟨hlow, hhigh⟩ := abs_le.mp hx
  have hfloor : ⌊x * 2 ^ 14⌋ ≤ 512 * 2 ^ 14 := by
    refine Int.floor_le_iff.mpr ?_
    push_cast; linarith
  have hfloor' : -(512 * 2 ^ 14) ≤ ⌊x * 2 ^ 14⌋ := by
    refine Int.le_floor.mpr ?_
    push_cast; linarith
  obtain ⟨c, hc, hval⟩ := exists_val_eq_div (z := ⌊x * 2 ^ 14⌋) (by omega)
  refine ⟨hw, (h.abs_sub_le hw hc).trans ?_⟩
  have hlt := Int.lt_floor_add_one (x * 2 ^ 14)
  have hle := Int.floor_le (x * 2 ^ 14)
  generalize ⌊x * 2 ^ 14⌋ = z at hval hlt hle
  rw [hval, abs_le]
  push_cast
  constructor <;> linarith

end

end Sys2Proof
end

section
/-!
The release of a silent voice (R141, R168, R330).
-/
namespace Sys2Proof.Machine

/-- A tick of a voice in RELEASE is the RELEASE part of the tick (R161, R168). -/
theorem tick_of_release {v : Voice} (p : Params) (dt : Word) (h : v.stage = .release) :
    tick p dt v = tickRelease p dt { v with stageTime := add32 v.stageTime dt } := by
  simp [tick, tickDelay, tickAttack, tickHold, tickDecay, tickSustain, h]

/-- RELEASE ends the note at rate zero, and where the volume reaches zero or below (R168). -/
theorem tickRelease_eq_endNote {p : Params} {dt : Word} {v : Voice} (hstage : v.stage = .release)
    (h : eq32 p.release zero32 = true ∨
      le32 (sub32 v.volume (mul32 p.release dt)) zero32 = true) :
    tickRelease p dt v = endNote v := by
  rw [tickRelease, if_pos hstage]
  split
  · rfl
  · next hrate =>
    dsimp only
    rw [if_pos (h.resolve_left hrate)]
    rfl

/-- Zero less a product of values from 0 up is at most zero, even where the product overflows. -/
theorem le32_sub32_mul32 {a b : Word} (ha : isFinite a = true) (hb : isFinite b = true)
    (ha0 : 0 ≤ val a) (hb0 : 0 ≤ val b) : le32 (sub32 zero32 (mul32 a b)) zero32 = true := by
  have hmul := mul32_roundsTo ha hb
  have hnonneg : (0 : ℝ) ≤ val a * val b := by exact_mod_cast mul_nonneg ha0 hb0
  have hzero : isFinite zero32 = true := by decide
  obtain hfin | hinf := hmul.isFinite_or_infinity
  · have hsub := sub32_roundsTo hzero hfin
    have hmul0 := hmul.le_val hfin hzero (by simpa [val_zero32] using hnonneg)
    have hsubfin := hsub.isFinite_of_abs_le hfin (by simp [val_zero32])
    have hmul0' : (0 : ℝ) ≤ val (mul32 a b) := by exact_mod_cast val_zero32 ▸ hmul0
    exact (le32_iff hsubfin hzero).mpr
      (hsub.val_le hsubfin hzero (by simpa [val_zero32] using hmul0'))
  · rw [hinf, decide_eq_false hnonneg.not_gt]
    decide

end Sys2Proof.Machine

namespace Sys2Proof.Proofs
open Machine

/-- Settles O47: no volume is left to lose, so the first loss takes it to zero or below. -/
theorem silentReleaseEndsAtOnce : Obligations.SilentReleaseEndsAtOnce := by
  intro p dt v hlegal hstage hvolume hdt hpos
  obtain ⟨htime, -⟩ := legalValuesAreRealRanges p.release
  obtain ⟨hrate, hrate0⟩ :=
    (htime .release (by simp)).mp (paramsLegal_iff.mp hlegal .release)
  have hdt0 : 0 ≤ val dt := by
    have hgt := (gt32_iff hdt (by decide)).mp hpos
    exact val_zero32.symm.trans_le hgt.le
  have hends : le32 (sub32 v.volume (mul32 p.release dt)) zero32 = true :=
    hvolume ▸ le32_sub32_mul32 hrate hdt hrate0 hdt0
  have htick := (tick_of_release p dt hstage).trans
    (tickRelease_eq_endNote (v := { v with stageTime := add32 v.stageTime dt }) hstage (.inr hends))
  rw [htick]
  exact ⟨rfl, rfl⟩

end Sys2Proof.Proofs
end

section
/-!
What KEY_ON puts on a voice with legal registers (R131, R132, R134).
-/
namespace Sys2Proof
open Machine

/-- What lies between two whole numbers of 24 bits is rounded to a value between them (R8). -/
theorem RoundsTo.mem_Icc_int {x : ℝ} {w : Word} (h : RoundsTo x w) {m n : Int}
    (hm : m.natAbs ≤ 2 ^ 24) (hn : n.natAbs ≤ 2 ^ 24) (hx : x ∈ Set.Icc (m : ℝ) n) :
    isFinite w = true ∧ (val w : ℝ) ∈ Set.Icc (m : ℝ) n := by
  obtain ⟨hlo, hvlo⟩ := i2f32_exact hm
  obtain ⟨hhi, hvhi⟩ := i2f32_exact hn
  have hrange := h.inRange32_of_mem_Icc hlo hhi (by rwa [hvlo, hvhi, Rat.cast_intCast, Rat.cast_intCast])
  rw [inRange32_iff hlo hhi, hvlo, hvhi] at hrange
  obtain ⟨hw, hlow, hhigh⟩ := hrange
  exact ⟨hw, by exact_mod_cast hlow, by exact_mod_cast hhigh⟩

end Sys2Proof

namespace Sys2Proof.Machine

theorem exact_of_i2f32_eq {z : Int} {a : Word} (hz : z.natAbs ≤ 2 ^ 24) (h : i2f32 z = a) :
    isFinite a = true ∧ val a = z :=
  h ▸ i2f32_exact hz

theorem exact_one32 : isFinite one32 = true ∧ val one32 = 1 := by
  simpa using exact_of_i2f32_eq (z := 1) (by decide) (by decide +kernel : i2f32 1 = one32)

/-! ### The registers that KEY_ON reads (R31) -/

section
variable {p : Params} (hp : paramsLegal p = true)
include hp

theorem unisonCount_bounds : 1 ≤ p.unisonCount.toNat ∧ p.unisonCount.toNat ≤ 255 := by
  obtain ⟨-, -, -, hcount, -⟩ := Proofs.legalValuesAreRealRanges p.unisonCount
  exact hcount.mp (paramsLegal_iff.mp hp .unisonCount)

theorem detuneDepth_bounds : isFinite p.detuneDepth = true ∧ |(val p.detuneDepth : ℝ)| ≤ 256 := by
  obtain ⟨-, -, -, -, hdetune, -⟩ := Proofs.legalValuesAreRealRanges p.detuneDepth
  obtain ⟨hfin, hlow, hhigh⟩ := hdetune.mp (paramsLegal_iff.mp hp .detuneDepth)
  exact ⟨hfin, abs_le.mpr ⟨by exact_mod_cast hlow, by exact_mod_cast hhigh⟩⟩

theorem isFinite_phaseSpread : isFinite p.phaseSpread = true :=
  paramsLegal_iff.mp hp .phaseSpread

end

/-! ### Linear spans (R131) -/

theorem val_half : val 0x3F000000#32 = 1 / 2 := by
  have hunits : exactUnits 0x3F000000#32 = 2 ^ 148 := by decide +kernel
  rw [val, hunits]
  norm_num

theorem half_roundsTo {a : Word} (ha : isFinite a = true) :
    RoundsTo ((val a : ℝ) / 2) (mul32 a 0x3F000000#32) := by
  have h := mul32_roundsTo ha (b := 0x3F000000#32) (by decide)
  rwa [val_half, Rat.cast_div, Rat.cast_one, Rat.cast_ofNat, mul_one_div] at h

theorem isFinite_half {a : Word} (ha : isFinite a = true) :
    isFinite (mul32 a 0x3F000000#32) = true :=
  (half_roundsTo ha).isFinite_of_abs_le ha (by
    rw [abs_div, abs_two]
    exact half_le_self (abs_nonneg _))

theorem isFinite_of_isNaN_eq_false {a : Word} (hnan : isNaN a = false) (hinf : ¬isInf a = true) :
    isFinite a = true := by
  simp only [isFinite, isNaN, isInf, decide_eq_true_eq, decide_eq_false_iff_not] at *
  omega

theorem isNaN_add32 {a b : Word} (ha : isFinite a = true) (hb : isNaN b = false) :
    isNaN (add32 a b) = false := by
  by_cases hinf : isInf b = true
  · have hsum : add32 a b = b := by
      simp [add32, isNaN_of_isFinite ha, isInf_of_isFinite ha, hb, hinf]
    rwa [hsum]
  · exact (add32_roundsTo ha (isFinite_of_isNaN_eq_false hb hinf)).isNaN_eq_false

section
variable {d s q m i k : ℝ} (hd : |d| ≤ 256) (hq : |q - d / k| ≤ 1 / 2 ^ 14) (hi : 0 ≤ i) (hik : i ≤ k)
  (hk : 0 < k ∧ k ≤ 254)
include hq hi hik hk

/-- The error of i rounded steps of a span d over k intervals. -/
theorem abs_steps_sub_le : |i * q - i / k * d| ≤ 254 / 2 ^ 14 := by
  have hfactor : i * q - i / k * d = i * (q - d / k) := by ring
  rw [hfactor, abs_mul, abs_of_nonneg hi]
  calc i * |q - d / k| ≤ 254 * (1 / 2 ^ 14) :=
        mul_le_mul (hik.trans hk.2) hq (abs_nonneg _) (by norm_num)
    _ = 254 / 2 ^ 14 := mul_one_div _ _

include hd

theorem abs_steps_le : |i * q| ≤ 512 := by
  have hpart : |i / k * d| ≤ 1 * 256 := by
    rw [abs_mul, abs_of_nonneg (div_nonneg hi hk.1.le)]
    exact mul_le_mul ((div_le_one hk.1).mpr hik) hd (abs_nonneg _) zero_le_one
  have herr := abs_steps_sub_le hq hi hik hk
  rw [abs_le] at hpart herr ⊢
  constructor <;> linarith

/-- From about -d/2 up by the rounded part m, a span of at most 256 stays within 129 of zero. -/
theorem abs_start_add_steps_le (hs : |s + d / 2| ≤ 1 / 2 ^ 14) (hm : |m - i * q| ≤ 1 / 2 ^ 14) :
    |s + m| ≤ 129 := by
  have hcentre : |(i / k - 1 / 2) * d| ≤ 1 / 2 * 256 := by
    have hlow : 0 ≤ i / k := div_nonneg hi hk.1.le
    have hhigh : i / k ≤ 1 := (div_le_one hk.1).mpr hik
    rw [abs_mul]
    exact mul_le_mul (abs_le.mpr ⟨by linarith, by linarith⟩) hd (abs_nonneg _) (by norm_num)
  have herr := abs_steps_sub_le hq hi hik hk
  rw [abs_le] at hcentre herr hs hm ⊢
  constructor <;> linarith

end

theorem one_le_sub_one {n : Nat} (hn2 : 2 ≤ n) : (1 : ℝ) ≤ (n : ℝ) - 1 := by
  have : (2 : ℝ) ≤ n := by exact_mod_cast hn2
  linarith

section
variable {start span : Word} {i n : Nat} (hstart : isFinite start = true)
  (hspan : isFinite span = true) (hn2 : 2 ≤ n) (hn : n ≤ 255) (hi : i < n)
include hspan hn2 hn

/-- The step of a span over n positions. -/
theorem spanStep_roundsTo :
    RoundsTo ((val span : ℝ) / ((n : ℝ) - 1)) (div32 span (i2f32 ((n : Int) - 1))) := by
  obtain ⟨hfin, hval⟩ := i2f32_exact (z := (n : Int) - 1) (by omega)
  have h0 : val (i2f32 ((n : Int) - 1)) ≠ 0 := by
    rw [hval]
    exact_mod_cast (by omega : (n : Int) - 1 ≠ 0)
  have h := div32_roundsTo hspan hfin h0
  rw [hval] at h
  exact_mod_cast h

theorem isFinite_spanStep : isFinite (div32 span (i2f32 ((n : Int) - 1))) = true := by
  have h1 : (1 : ℝ) ≤ (n : ℝ) - 1 := one_le_sub_one hn2
  refine (spanStep_roundsTo hspan hn2 hn).isFinite_of_abs_le hspan ?_
  rw [abs_div, abs_of_pos (a := (n : ℝ) - 1) (by linarith)]
  exact div_le_self (abs_nonneg _) h1

include hi

/-- How far position i stands from the start of a span. -/
theorem spanPart_roundsTo : RoundsTo (i * (val (div32 span (i2f32 ((n : Int) - 1))) : ℝ))
    (mul32 (i2f32 i) (div32 span (i2f32 ((n : Int) - 1)))) := by
  obtain ⟨hfin, hval⟩ := i2f32_exact (z := (i : Int)) (by omega)
  have h := mul32_roundsTo hfin (isFinite_spanStep hspan hn2 hn)
  rw [hval] at h
  exact_mod_cast h

include hstart

theorem isNaN_spread : isNaN (spread start span i n) = false :=
  isNaN_add32 hstart (spanPart_roundsTo hspan hn2 hn hi).isNaN_eq_false

/-- A span of at most 256 that starts at about its negated half stays within 129 of zero. -/
theorem spread_mem_Icc (hwidth : |(val span : ℝ)| ≤ 256)
    (hcentred : |(val start : ℝ) + val span / 2| ≤ 1 / 2 ^ 14) :
    isFinite (spread start span i n) = true ∧
      (val (spread start span i n) : ℝ) ∈ Set.Icc (-129 : ℝ) 129 := by
  have h1 : (1 : ℝ) ≤ (n : ℝ) - 1 := one_le_sub_one hn2
  have hk : 0 < (n : ℝ) - 1 ∧ (n : ℝ) - 1 ≤ 254 := by
    have : (n : ℝ) ≤ 255 := by exact_mod_cast hn
    exact ⟨by linarith, by linarith⟩
  have hik : (i : ℝ) ≤ (n : ℝ) - 1 := by
    have : (i : ℝ) + 1 ≤ n := by exact_mod_cast hi
    linarith
  have hstep : |(val span : ℝ) / ((n : ℝ) - 1)| ≤ 512 := by
    rw [abs_div, abs_of_pos hk.1]
    linarith [div_le_self (abs_nonneg (val span : ℝ)) h1]
  obtain ⟨-, hq⟩ := (spanStep_roundsTo hspan hn2 hn).abs_sub_le_grid hstep
  obtain ⟨hfin, hm⟩ := (spanPart_roundsTo hspan hn2 hn hi).abs_sub_le_grid
    (abs_steps_le hwidth hq i.cast_nonneg hik hk)
  have hsum := abs_start_add_steps_le hwidth hq i.cast_nonneg hik hk hcentred hm
  rw [spread]
  simpa using (add32_roundsTo hstart hfin).mem_Icc_int (m := -129) (n := 129) (by decide) (by decide)
    (by simpa using abs_le.mp hsum)

end

/-! ### The note, the velocity and the phase of a position (R131, R132) -/

section
variable {p : Params} (hp : paramsLegal p = true) {i : Nat} (hi : i < p.unisonCount.toNat)
include hp hi

theorem noteOffset_mem_Icc : isFinite (noteOffset p i p.unisonCount.toNat) = true ∧
    (val (noteOffset p i p.unisonCount.toNat) : ℝ) ∈ Set.Icc (-129 : ℝ) 129 := by
  obtain ⟨hn1, hn⟩ := unisonCount_bounds hp
  obtain ⟨hfin, hwidth⟩ := detuneDepth_bounds hp
  unfold noteOffset
  split
  · exact ⟨by decide, by simp [val_zero32]⟩
  · have hhalf := half_roundsTo hfin
    have hgrid := (hhalf.abs_sub_le_grid (by rw [abs_div, abs_two]; linarith)).2
    refine spread_mem_Icc ?_ hfin (by omega) hn hi hwidth ?_
    · rw [isFinite_neg32]
      exact isFinite_half hfin
    · rw [val_neg32, Rat.cast_neg, neg_add_eq_sub, abs_sub_comm]
      exact hgrid

/-- A phase offset may overflow, but it is a number. -/
theorem isNaN_phaseOffset : isNaN (phaseOffset p i p.unisonCount.toNat) = false := by
  obtain ⟨hn1, hn⟩ := unisonCount_bounds hp
  have hfin := isFinite_phaseSpread hp
  unfold phaseOffset
  split
  · decide
  · refine isNaN_spread ?_ hfin (by omega) hn hi
    rw [isFinite_neg32]
    exact isFinite_half hfin

/-- The wrap of R131, and the free value in its place, lie in [0, 1]. -/
theorem wrappedPhase_inUnit :
    inRange32 zero32 one32 (wrappedPhase p i p.unisonCount.toNat) = true := by
  unfold wrappedPhase
  split
  · exact unitFree_inRange _
  · next hinf =>
    have hfin := isFinite_of_isNaN_eq_false (isNaN_phaseOffset hp hi) hinf
    obtain ⟨hfrac, hlow, hhigh⟩ := frac32_mem_unit hfin
    have hrange := inRange32_iff_of_units (lo := zero32) (hi := one32) (m := 0) (n := 1)
      (x := frac32 (phaseOffset p i p.unisonCount.toNat)) (by decide) (by decide)
    exact hrange.mpr ⟨hfrac, by simpa using hlow, by simpa using hhigh⟩

/-- The key and its detune stay in [-129, 384] (R131). -/
theorem note_inRange (key : Byte) : inRange32 0xC3010000#32 0x43C00000#32
    (add32 (i2f32 key.toNat) (noteOffset p i p.unisonCount.toNat)) = true := by
  have hkey := key.isLt
  obtain ⟨hfin, hlow, hhigh⟩ := noteOffset_mem_Icc hp hi
  obtain ⟨hkeyfin, hkeyval⟩ := i2f32_exact (z := (key.toNat : Int)) (by omega)
  have hkey255 : (key.toNat : ℝ) ≤ 255 := by exact_mod_cast Nat.le_of_lt_succ hkey
  have hkey0 : (0 : ℝ) ≤ key.toNat := Nat.cast_nonneg _
  obtain ⟨hsum, hsumlow, hsumhigh⟩ := (add32_roundsTo hkeyfin hfin).mem_Icc_int (m := -129) (n := 384)
    (by decide) (by decide) (by
      rw [hkeyval]
      push_cast
      exact ⟨by linarith, by linarith⟩)
  rw [inRange32_iff_of_units (m := -129) (n := 384) (by decide +kernel) (by decide +kernel)]
  exact ⟨hsum, by exact_mod_cast hsumlow, by exact_mod_cast hsumhigh⟩

end

/-- The velocity of one position alone: at most 255/127, rounded (R132). -/
theorem singleVelocity_inRange (vel : Byte) :
    inRange32 zero32 0x40008102#32 (div32 (i2f32 vel.toNat) 0x42FE0000#32) = true := by
  obtain ⟨hfin, hval⟩ := i2f32_exact (z := (vel.toNat : Int)) (by omega)
  obtain ⟨hfin127, hval127⟩ :=
    exact_of_i2f32_eq (z := 127) (a := 0x42FE0000#32) (by decide) (by decide +kernel)
  rcases Nat.lt_or_ge vel.toNat 255 with hlt | hge
  · have hround := div32_roundsTo hfin hfin127 (by rw [hval127]; norm_num)
    have hvel : (vel.toNat : ℝ) ≤ 254 := by exact_mod_cast Nat.le_of_lt_succ hlt
    have htwo : (2 : ℝ) ≤ val 0x40008102#32 := by
      have hval2 := (i2f32_exact (z := 2) (by decide)).2
      have hle : val (i2f32 2) ≤ val 0x40008102#32 := orderKey_le_iff.mp (by decide +kernel)
      exact_mod_cast hval2 ▸ hle
    refine hround.inRange32_of_mem_Icc (by decide) (by decide) ?_
    rw [hval, hval127, val_zero32]
    push_cast
    exact ⟨by positivity, by linarith⟩
  · have hvel : vel.toNat = 255 := by omega
    rw [hvel]
    decide +kernel

/-- The division by the root of N >= 1 makes a velocity no larger (R132). -/
theorem velocityScale_inRange (vel : Byte) {n : Nat} (hn1 : 1 ≤ n) (hn : n ≤ 255) :
    inRange32 zero32 0x40008102#32 (velocityScale vel n) = true := by
  have hmax : isFinite 0x40008102#32 = true := by decide
  have hvel := singleVelocity_inRange vel
  rw [inRange32_iff (by decide) hmax, val_zero32] at hvel
  obtain ⟨hvelfin, hvel0, hvelmax⟩ := hvel
  obtain ⟨hnfin, hnval⟩ := i2f32_exact (z := (n : Int)) (by omega)
  have hn1' : (1 : ℝ) ≤ n := by exact_mod_cast hn1
  have hn' : (n : ℝ) ≤ 255 := by exact_mod_cast hn
  have hsqrt := sqrt32_roundsTo hnfin (by rw [hnval]; positivity)
  rw [hnval] at hsqrt
  push_cast at hsqrt
  obtain ⟨hrootfin, hroot1, -⟩ := hsqrt.mem_Icc_int (m := 1) (n := 16) (by decide) (by decide) (by
    push_cast
    exact ⟨Real.one_le_sqrt.mpr hn1', Real.sqrt_le_iff.mpr ⟨by norm_num, by linarith⟩⟩)
  rw [Int.cast_one] at hroot1
  have hroot0 : val (sqrt32 (i2f32 n)) ≠ 0 := by
    intro h0
    rw [h0, Rat.cast_zero] at hroot1
    linarith
  have hvel0' : (0 : ℝ) ≤ val (div32 (i2f32 vel.toNat) 0x42FE0000#32) := by exact_mod_cast hvel0
  refine (div32_roundsTo hvelfin hrootfin hroot0).inRange32_of_mem_Icc (by decide) hmax ⟨?_, ?_⟩
  · rw [val_zero32, Rat.cast_zero]
    exact div_nonneg hvel0' (by linarith)
  · exact (div_le_self hvel0' hroot1).trans (by exact_mod_cast hvelmax)

end Sys2Proof.Machine
end

section
/-!
Invariants of voices that rest on legal registers and a well-formed configuration (R4, R31), and the sound of
a voice through KEY_ON, a frame and a step (R134, R201, R203, R230, R233).
-/
namespace Sys2Proof.Machine

/-! ### Voice invariants under legal registers -/

/-- A property of voices, with the changes of a voice that it must survive, as `VoiceKept`, where the
registers are legal and the configuration is well formed. -/
structure LegalVoiceKept (P : Voice → Prop) : Prop where
  place : ∀ {p : Params} (key vel : Byte) {i : Nat} {v : Voice}, paramsLegal p = true →
    i < p.unisonCount.toNat → P v → P (placeUnison p key vel p.unisonCount.toNat i v)
  release : ∀ (b : Bool) (key : Byte) {v : Voice}, P v → P (releaseVoice b key v)
  frame : ∀ {c : Config} {p : Params} (volume : Word) {v : Voice} (cell : Frame),
    configWellFormed c = true → paramsLegal p = true → P v → P (voiceFrame c p volume v cell).1
  reset : ∀ {seed : Word}, seed ≠ 0#32 → P (resetVoice seed)

/-- A voice invariant with what it rests on. -/
structure LegalVoices (P : Voice → Prop) (s : State) : Prop where
  wellFormed : configWellFormed s.cfg = true
  legal : RegistersLegal s
  voices : AllVoices P s

theorem OscStep.forall_voices_of_legal {P : Voice → Prop} (hP : LegalVoiceKept P) {c : Config}
    {volume : Word} {o o' : Osc} (hstep : OscStep c volume o o') (hwf : configWellFormed c = true)
    (hp : Machine.paramsLegal o.params = true) (h : ∀ v ∈ o.voices, P v) : ∀ v ∈ o'.voices, P v := by
  cases hstep with
  | write => exact h
  | keyOn key vel => exact forall_voices_keyOnPool (fun i hi v hv => hP.place key vel hp hi hv) h
  | keyOff key => exact List.forall_mem_map.mpr fun u hu => hP.release _ _ (h u hu)
  | render cells =>
    exact oscBlock_keeps P _ _ _ (fun _ cell hv => hP.frame _ cell hwf hp hv) _ _ h

section
variable {P : Voice → Prop} (hP : LegalVoiceKept P)
include hP

theorem LegalVoiceKept.kept : Kept (LegalVoices P) where
  congr hs hcfg hvolume hoscs :=
    ⟨hcfg ▸ hs.wellFormed, registersLegal_kept.congr hs.legal hcfg hvolume hoscs, by
      unfold AllVoices; rw [hoscs]; exact hs.voices⟩
  volume hx hs := ⟨hs.wellFormed, registersLegal_kept.volume hx hs.legal, hs.voices⟩
  osc hstep hs := ⟨hs.wellFormed, registersLegal_kept.osc hstep hs.legal,
    forall_oscs_modifyOsc (fun o ho hv => (hstep o ho).forall_voices_of_legal hP hs.wellFormed
      (hs.legal.1 o (List.mem_of_getElem? ho)) hv) hs.voices⟩
  reset hwf := ⟨hwf, registersLegal_kept.reset hwf, allVoices_resetWith fun _ hi _ hseed =>
    hP.reset (seed_ne_zero_of_wellFormed (instanceWellFormed_of_wellFormed hwf hi) hseed)⟩

theorem LegalVoiceKept.step {s t : State} (hlegal : RegistersLegal s) (hvoices : AllVoices P s)
    (h : step s = .next t) : AllVoices P t :=
  (hP.kept.step ⟨(step_cases h).1, hlegal, hvoices⟩ h).voices

end

/-- What the placing of each position keeps, KEY_ON keeps of all voices. -/
theorem allVoices_execKeyOn {P : Voice → Prop} {s t : State} {inst key vel : Byte}
    (hplace : ∀ o ∈ s.oscs, ∀ i < o.params.unisonCount.toNat, ∀ v, P v →
      P (placeUnison o.params key vel o.params.unisonCount.toNat i v))
    (h : exec (.keyOn inst key vel) s = .next t) (hs : AllVoices P s) : AllVoices P t := by
  simp only [exec, execKeyOn] at h
  split at h <;> cases h
  · obtain ⟨-, heq⟩ | ⟨o, s1, ho, rfl, heq⟩ := keyOnInstance_cases inst.toNat key vel s
    · rwa [heq]
    · have hmem := List.mem_of_getElem? ho
      have hkept : AllVoices P
          (modifyOsc inst.toNat (fun u => { u with voices := (keyOnPool key vel o).1 }) s) :=
        forall_oscs_modifyOsc
          (fun _ _ _ => forall_voices_keyOnPool (hplace o hmem) (hs o hmem)) hs
      obtain heq | heq := heq <;> rw [heq] <;> exact hkept
  · exact hs

/-! ### The phase through a frame (R200, R230) -/

theorem sampleRate_bounds_of_wellFormed {c : Config} (h : configWellFormed c = true) :
    1 ≤ c.sampleRate ∧ c.sampleRate ≤ 16777216 := by
  simp only [configWellFormed, sizesWellFormed, Bool.and_eq_true, decide_eq_true_eq] at h
  obtain ⟨-, -, ⟨hlow, hhigh, -⟩, -⟩ := h
  exact ⟨hlow, hhigh⟩

/-- The sample period is at most a second (R4, R200). -/
theorem dt32_inUnit {c : Config} (h : configWellFormed c = true) :
    inRange32 zero32 one32 (dt32 c) = true := by
  obtain ⟨hlow, hhigh⟩ := sampleRate_bounds_of_wellFormed h
  obtain ⟨hfin, hval⟩ := i2f32_exact (z := (c.sampleRate : Int)) (by omega)
  obtain ⟨hone, hvalone⟩ := exact_one32
  have hrate : (1 : ℝ) ≤ c.sampleRate := by exact_mod_cast hlow
  have hround := div32_roundsTo hone hfin (by
    rw [hval]
    exact_mod_cast (by omega : c.sampleRate ≠ 0))
  refine hround.inRange32_of_mem_Icc (by decide) hone ?_
  rw [hval, hvalone, val_zero32]
  push_cast
  exact ⟨by positivity, (div_le_one (by linarith)).mpr hrate⟩

theorem magBits_roundInt_le (z : Int) (negZero : Bool) :
    magBits (roundInt z negZero) ≤ roundUnits z.natAbs 1 := by
  unfold roundInt
  split
  · rw [magBits_packSign (by norm_num)]
    exact Nat.zero_le _
  · rw [magBits_packSign ((roundUnits_le_infMag _ _).trans_lt infMag_lt)]

theorem exactUnits_roundInt_of_nonneg {z : Int} (h0 : 0 ≤ z) (negZero : Bool) :
    exactUnits (roundInt z negZero) = unitsOf (magBits (roundInt z negZero)) := by
  unfold roundInt
  split
  · rw [exactUnits_packSign (by norm_num), magBits_packSign (by norm_num)]
    simp
  · rw [exactUnits, decide_eq_false h0.not_gt,
      signBit_packSign ((roundUnits_le_infMag _ _).trans_lt infMag_lt)]
    rfl

/-- `inRange32` in units of 2^-149. -/
theorem inRange32_iff_exactUnits {lo hi x : Word} (hlo : isFinite lo = true)
    (hhi : isFinite hi = true) : inRange32 lo hi x = true ↔
      isFinite x = true ∧ exactUnits lo ≤ exactUnits x ∧ exactUnits x ≤ exactUnits hi := by
  rw [inRange32_iff hlo hhi, ← not_lt, ← not_lt, val_lt_val_iff, val_lt_val_iff, not_lt, not_lt]

/-- At 2^24 a whole second is half a unit in the last place, and the tie goes back to 2^24 (R8): the phase
does not pass it. -/
theorem add32_inPhaseRange {a b : Word} (ha : inRange32 zero32 0x4B800000#32 a = true)
    (hb : inRange32 zero32 one32 b = true) : inRange32 zero32 0x4B800000#32 (add32 a b) = true := by
  have htop : roundUnits ((2 ^ 24 + 1) * 2 ^ 149) 1 = 0x4B800000 := by decide +kernel
  have hzero : exactUnits zero32 = 0 := by decide
  have hone : exactUnits one32 = 2 ^ 149 := by decide +kernel
  have hmax : exactUnits 0x4B800000#32 = unitsOf 0x4B800000 := by decide +kernel
  have hmaxUnits : unitsOf 0x4B800000 = 2 ^ 24 * 2 ^ 149 := by decide +kernel
  rw [inRange32_iff_exactUnits (by decide) (by decide), hzero, hmax] at ha ⊢
  rw [inRange32_iff_exactUnits (by decide) (by decide), hzero, hone] at hb
  obtain ⟨hafin, ha0, hahi⟩ := ha
  obtain ⟨hbfin, hb0, hbhi⟩ := hb
  rw [add32_eq_roundInt hafin hbfin]
  have hnonneg : 0 ≤ exactUnits a + exactUnits b := add_nonneg ha0 hb0
  have hmag : magBits (roundInt (exactUnits a + exactUnits b) (signBit a && signBit b)) ≤ 0x4B800000 :=
    calc _ ≤ roundUnits (exactUnits a + exactUnits b).natAbs 1 := magBits_roundInt_le ..
      _ ≤ roundUnits ((2 ^ 24 + 1) * 2 ^ 149) 1 := roundUnits_mono one_pos one_pos (by omega)
      _ = 0x4B800000 := htop
  rw [exactUnits_roundInt_of_nonneg hnonneg]
  exact ⟨decide_eq_true (hmag.trans_lt (by decide)), Int.natCast_nonneg _,
    by exact_mod_cast unitsOf_le_iff.mpr hmag⟩

theorem phase_voiceFrame (c : Config) (p : Params) (volume : Word) (v : Voice) (cell : Frame) :
    (voiceFrame c p volume v cell).1.phase = v.phase ∨
      (voiceFrame c p volume v cell).1.phase = add32 v.phase (dt32 c) := by
  have htick : (tick p (dt32 c) v).phase = v.phase := by rw [tick_frame]
  unfold voiceFrame
  dsimp only
  split
  · exact .inl htick
  · exact .inr (by rw [htick])

/-! ### The sound of a voice (R201, R203, R233) -/

theorem phaseInRange_of_inUnit {v : Voice} (h : inRange32 zero32 one32 v.phase = true) :
    PhaseInRange v := by
  obtain ⟨hfin, -⟩ := (inRange32_iff (by decide) (by decide)).mp h
  rw [inRange32, Bool.and_eq_true] at h
  exact ⟨hfin, h.1⟩

theorem inRange32_mono_right {lo hi hi' x : Word} (hle : le32 hi hi' = true)
    (h : inRange32 lo hi x = true) : inRange32 lo hi' x = true := by
  simp only [inRange32, Bool.and_eq_true, ge32, le32_eq_true_iff] at h hle ⊢
  obtain ⟨hlow, hx, -, hxhi⟩ := h
  obtain ⟨-, hhi', hhi⟩ := hle
  exact ⟨hlow, hx, hhi', hxhi.trans hhi⟩

theorem soundInRange_kept : LegalVoiceKept SoundInRange where
  place key vel _ _ hp hi _ :=
    ⟨note_inRange hp hi key, velocityScale_inRange vel (unisonCount_bounds hp).1 (unisonCount_bounds hp).2,
      inRange32_mono_right (by decide) (wrappedPhase_inUnit hp hi)⟩
  release b key v hv := by
    unfold releaseVoice
    split <;> exact hv
  frame {c p} volume v cell hwf _ hv := by
    obtain ⟨hnote, hvelocity, hphase⟩ := hv
    have hkept := noteOf_voiceFrame c p volume v cell
    simp only [noteOf, Prod.mk.injEq] at hkept
    obtain ⟨-, hnote', hvelocity', -⟩ := hkept
    refine ⟨hnote' ▸ hnote, hvelocity' ▸ hvelocity, ?_⟩
    obtain heq | heq := phase_voiceFrame c p volume v cell <;> rw [heq]
    · exact hphase
    · exact add32_inPhaseRange hphase (dt32_inUnit hwf)
  reset {seed} _ := soundInRange_resetVoice seed

end Sys2Proof.Machine

namespace Sys2Proof.Proofs
open Machine

/-- Settles O55: KEY_ON places in range, and a frame adds a sample period that 2^24 absorbs. -/
theorem legalSoundStaysInRange : Obligations.LegalSoundStaysInRange := by
  refine ⟨fun s t inst key vel hlegal hs h => ?_, fun s t hlegal hs h =>
    soundInRange_kept.step hlegal hs h⟩
  refine allVoices_execKeyOn (fun o ho i hi v _ => ?_) h hs
  exact phaseInRange_of_inUnit (wrappedPhase_inUnit (hlegal.1 o ho) hi)

end Sys2Proof.Proofs
end

section
/-!
The tick as one case per stage (R161 to R168), and who takes a voice into RELEASE (R140, R168).
-/
namespace Sys2Proof.Machine

/-! ### Where a stage entered in a tick ends (R163 to R168) -/

/-- A voice with its envelope fields set: all that a tick writes (R160). An abbreviation, so that `simp` sees
the stage in it. -/
abbrev Voice.setEnvelope (v : Voice) (stage : Stage) (time volume : Word) : Voice :=
  { v with stage := stage, stageTime := time, volume := volume }

/-- The end of a tick of v that enters SUSTAIN at stage time t (R167). -/
def fromSustain (p : Params) (v : Voice) (t : Word) : Voice :=
  if eq32 p.sustain zero32 = true then v.setEnvelope .idle zero32 zero32
  else v.setEnvelope .sustain t p.sustain

/-- The end of a tick of v that enters DECAY at stage time t (R166). -/
def fromDecay (p : Params) (v : Voice) (t : Word) : Voice :=
  if eq32 p.decay zero32 = true then fromSustain p v t
  else if ge32 t p.decay = true then fromSustain p v (sub32 t p.decay)
  else v.setEnvelope .decay t (add32 one32 (mul32 (sub32 p.sustain one32) (div32 t p.decay)))

/-- The end of a tick of v that enters HOLD at stage time t (R165). -/
def fromHold (p : Params) (v : Voice) (t : Word) : Voice :=
  if ge32 t p.hold = true then fromDecay p v (sub32 t p.hold) else v.setEnvelope .hold t one32

/-- The end of a tick of v that enters ATTACK at stage time t (R164). -/
def fromAttack (p : Params) (v : Voice) (t : Word) : Voice :=
  if eq32 p.attack zero32 = true then fromHold p v t
  else if ge32 t p.attack = true then fromHold p v (sub32 t p.attack)
  else v.setEnvelope .attack t (min32 (div32 t p.attack) one32)

/-- The end of a tick of v that enters DELAY at stage time t (R163). -/
def fromDelay (p : Params) (v : Voice) (t : Word) : Voice :=
  if ge32 t p.delay = true then fromAttack p v (sub32 t p.delay) else v.setEnvelope .delay t zero32

/-- What a tick of RELEASE leaves of the volume of v (R168). -/
def releasedVolume (p : Params) (dt : Word) (v : Voice) : Word := sub32 v.volume (mul32 p.release dt)

/-- The end of a tick of v, in RELEASE at stage time t (R168). -/
def fromRelease (p : Params) (dt : Word) (v : Voice) (t : Word) : Voice :=
  if eq32 p.release zero32 = true ∨ le32 (releasedVolume p dt v) zero32 = true then
    v.setEnvelope .idle zero32 zero32
  else v.setEnvelope .release t (releasedVolume p dt v)

/-! ### The parts of a tick (R161) -/

section
variable (p : Params) (dt : Word)

section
variable {v : Voice}

theorem tickDelay_of_ne (h : v.stage ≠ .delay) : tickDelay p v = v := if_neg h
theorem tickAttack_of_ne (h : v.stage ≠ .attack) : tickAttack p v = v := if_neg h
theorem tickHold_of_ne (h : v.stage ≠ .hold) : tickHold p v = v := if_neg h
theorem tickDecay_of_ne (h : v.stage ≠ .decay) : tickDecay p v = v := if_neg h
theorem tickSustain_of_ne (h : v.stage ≠ .sustain) : tickSustain p v = v := if_neg h
theorem tickRelease_of_ne (h : v.stage ≠ .release) : tickRelease p dt v = v := if_neg h

end

variable (v : Voice) (t x : Word)

theorem tickDelay_setEnvelope : tickDelay p (v.setEnvelope .delay t x) =
    if ge32 t p.delay = true then v.setEnvelope .attack (sub32 t p.delay) zero32
    else v.setEnvelope .delay t zero32 := if_pos rfl

theorem tickAttack_setEnvelope : tickAttack p (v.setEnvelope .attack t x) =
    if eq32 p.attack zero32 = true then v.setEnvelope .hold t x
    else if ge32 t p.attack = true then
      v.setEnvelope .hold (sub32 t p.attack) (min32 (div32 t p.attack) one32)
    else v.setEnvelope .attack t (min32 (div32 t p.attack) one32) := if_pos rfl

theorem tickHold_setEnvelope : tickHold p (v.setEnvelope .hold t x) =
    if ge32 t p.hold = true then v.setEnvelope .decay (sub32 t p.hold) one32
    else v.setEnvelope .hold t one32 := if_pos rfl

theorem tickDecay_setEnvelope : tickDecay p (v.setEnvelope .decay t x) =
    if eq32 p.decay zero32 = true then v.setEnvelope .sustain t x
    else if ge32 t p.decay = true then v.setEnvelope .sustain (sub32 t p.decay)
      (add32 one32 (mul32 (sub32 p.sustain one32) (div32 t p.decay)))
    else v.setEnvelope .decay t
      (add32 one32 (mul32 (sub32 p.sustain one32) (div32 t p.decay))) := if_pos rfl

theorem tickSustain_setEnvelope :
    tickSustain p (v.setEnvelope .sustain t x) = fromSustain p v t := if_pos rfl

/-! ### The rest of a tick from each stage on -/

theorem ticks_of_sustain :
    tickRelease p dt (tickSustain p (v.setEnvelope .sustain t x)) = fromSustain p v t := by
  rw [tickSustain_setEnvelope, fromSustain]
  split <;> exact tickRelease_of_ne p dt (by simp)

theorem ticks_of_decay : tickRelease p dt (tickSustain p (tickDecay p (v.setEnvelope .decay t x))) =
    fromDecay p v t := by
  rw [tickDecay_setEnvelope, fromDecay]
  split
  · exact ticks_of_sustain ..
  · split
    · exact ticks_of_sustain ..
    · simp [tickSustain_of_ne, tickRelease_of_ne]

theorem ticks_of_hold : tickRelease p dt (tickSustain p (tickDecay p (tickHold p
    (v.setEnvelope .hold t x)))) = fromHold p v t := by
  rw [tickHold_setEnvelope, fromHold]
  split
  · exact ticks_of_decay ..
  · simp [tickDecay_of_ne, tickSustain_of_ne, tickRelease_of_ne]

theorem ticks_of_attack : tickRelease p dt (tickSustain p (tickDecay p (tickHold p (tickAttack p
    (v.setEnvelope .attack t x))))) = fromAttack p v t := by
  rw [tickAttack_setEnvelope, fromAttack]
  split
  · exact ticks_of_hold ..
  · split
    · exact ticks_of_hold ..
    · simp [tickHold_of_ne, tickDecay_of_ne, tickSustain_of_ne, tickRelease_of_ne]

theorem ticks_of_delay : tickRelease p dt (tickSustain p (tickDecay p (tickHold p (tickAttack p
    (tickDelay p (v.setEnvelope .delay t x)))))) = fromDelay p v t := by
  rw [tickDelay_setEnvelope, fromDelay]
  split
  · exact ticks_of_attack ..
  · simp [tickAttack_of_ne, tickHold_of_ne, tickDecay_of_ne, tickSustain_of_ne, tickRelease_of_ne]

theorem tickRelease_eq_fromRelease {v : Voice} (h : v.stage = .release) :
    tickRelease p dt v = fromRelease p dt v v.stageTime := by
  unfold fromRelease
  split
  · next hends => exact tickRelease_eq_endNote h hends
  · next hlives =>
    obtain ⟨hrate, hvolume⟩ := not_or.mp hlives
    rw [tickRelease, if_pos h, if_neg hrate, ← h]
    exact if_neg hvolume

end

/-! ### A tick by the stage it begins in (R161 to R168) -/

/-- A tick by the stage it begins in. -/
def tickByStage (p : Params) (dt : Word) (v : Voice) : Voice :=
  let t := add32 v.stageTime dt
  match v.stage with
  | .idle => { v with volume := zero32 }
  | .delay => fromDelay p v t
  | .attack => fromAttack p v t
  | .hold => fromHold p v t
  | .decay => fromDecay p v t
  | .sustain => fromSustain p v t
  | .release => fromRelease p dt v t

theorem tick_of_active (p : Params) (dt : Word) {v : Voice} (h : v.stage ≠ .idle) :
    tick p dt v = tickRelease p dt (tickSustain p (tickDecay p (tickHold p (tickAttack p (tickDelay p
      (v.setEnvelope v.stage (add32 v.stageTime dt) v.volume)))))) := if_neg h

theorem tick_eq_tickByStage (p : Params) (dt : Word) (v : Voice) :
    tick p dt v = tickByStage p dt v := by
  unfold tickByStage
  cases h : v.stage with
  | idle => exact (tick_of_idle p dt h).trans (by rw [h])
  | delay => rw [tick_of_active, h, ticks_of_delay]; simp [h]
  | attack => rw [tick_of_active, h, tickDelay_of_ne, ticks_of_attack] <;> simp [h]
  | hold => rw [tick_of_active, h, tickDelay_of_ne, tickAttack_of_ne, ticks_of_hold] <;> simp [h]
  | decay =>
    rw [tick_of_active, h, tickDelay_of_ne, tickAttack_of_ne, tickHold_of_ne, ticks_of_decay] <;>
      simp [h]
  | sustain =>
    rw [tick_of_active, h, tickDelay_of_ne, tickAttack_of_ne, tickHold_of_ne, tickDecay_of_ne,
      ticks_of_sustain] <;> simp [h]
  | release => exact (tick_of_release p dt h).trans (tickRelease_eq_fromRelease p dt h)

/-! ### No tick enters RELEASE (R161) -/

section
variable (p : Params) (v : Voice) (t : Word)

theorem fromSustain_stage_ne : (fromSustain p v t).stage ≠ .release := by
  unfold fromSustain
  split <;> simp

theorem fromDecay_stage_ne : (fromDecay p v t).stage ≠ .release := by
  unfold fromDecay
  split
  · exact fromSustain_stage_ne _ _ _
  · split
    · exact fromSustain_stage_ne _ _ _
    · simp

theorem fromHold_stage_ne : (fromHold p v t).stage ≠ .release := by
  unfold fromHold
  split
  · exact fromDecay_stage_ne _ _ _
  · simp

theorem fromAttack_stage_ne : (fromAttack p v t).stage ≠ .release := by
  unfold fromAttack
  split
  · exact fromHold_stage_ne _ _ _
  · split
    · exact fromHold_stage_ne _ _ _
    · simp

theorem fromDelay_stage_ne : (fromDelay p v t).stage ≠ .release := by
  unfold fromDelay
  split
  · exact fromAttack_stage_ne _ _ _
  · simp

end

theorem tick_stage_ne_release (p : Params) (dt : Word) {v : Voice} (h : v.stage ≠ .release) :
    (tick p dt v).stage ≠ .release := by
  rw [tick_eq_tickByStage, tickByStage]
  split
  · exact h
  · exact fromDelay_stage_ne _ _ _
  · exact fromAttack_stage_ne _ _ _
  · exact fromHold_stage_ne _ _ _
  · exact fromDecay_stage_ne _ _ _
  · exact fromSustain_stage_ne _ _ _
  · next hrelease => exact absurd hrelease h

/-! ### KEY_ON enters DELAY, KEY_OFF releases its own key (R134, R140) -/

/-- A KEY_ON leaves a voice as it was, or puts it in DELAY. -/
theorem voiceAt_execKeyOn {inst key vel : Byte} {s t : State}
    (h : exec (.keyOn inst key vel) s = .next t) (k j : Nat) :
    voiceAt t k j = voiceAt s k j ∨ ∃ w, voiceAt t k j = some w ∧ w.stage = .delay := by
  simp only [exec, execKeyOn] at h
  split at h <;> cases h
  · obtain ⟨-, heq⟩ | ⟨o, s1, ho, rfl, heq⟩ := keyOnInstance_cases inst.toNat key vel s
    · exact .inl (by rw [heq])
    · have hoscs : (keyOnInstance inst.toNat key vel s).oscs =
          s.oscs.modify inst.toNat fun u => { u with voices := (keyOnPool key vel o).1 } := by
        obtain heq | heq := heq <;> rw [heq] <;> rfl
      by_cases hk : inst.toNat = k
      · subst hk
        have hpool : voiceAt (keyOnInstance inst.toNat key vel s) inst.toNat j =
            (keyOnPool key vel o).1[j]? := by simp [voiceAt, hoscs, ho]
        have hvoices : voiceAt s inst.toNat j = o.voices[j]? := by simp [voiceAt, ho]
        rw [hpool, hvoices, keyOnPool_getElem?]
        cases o.voices[j]? with
        | none => exact .inl rfl
        | some v =>
          rw [Option.map_some]
          split
          · exact .inr ⟨_, rfl, rfl⟩
          · exact .inl rfl
      · exact .inl (voiceAt_congr (by simp [hoscs, hk]) j)
  · exact .inl rfl

theorem releaseVoice_of_key_ne {b : Bool} {key : Byte} {v : Voice} (h : v.key ≠ key) :
    releaseVoice b key v = v := by
  simp [releaseVoice, h]

/-! ### Stages of length zero (R163 to R167) -/

theorem isFinite_of_isZero {a : Word} (h : isZero a = true) : isFinite a = true :=
  decide_eq_true ((of_decide_eq_true h).trans_lt (by decide))

theorem eq32_zero32_of_isZero {a : Word} (h : isZero a = true) : eq32 a zero32 = true := by
  rw [eq32_iff (isFinite_of_isZero h) (by decide), val_zero32, val_eq_zero_iff.mpr h]

theorem eq32_zero32_of_pos {a : Word} (h : gt32 a zero32 = true) : eq32 a zero32 = false := by
  simp only [gt32, lt32, Bool.and_eq_true, decide_eq_true_eq] at h
  simp [eq32, h.2.ne']

section
variable {t : Word} (ht : isFinite t = true) (hpos : gt32 t zero32 = true)
include ht hpos

theorem exactUnits_ne_zero_of_pos : exactUnits t ≠ 0 := by
  have hval := (gt32_iff ht (by decide)).mp hpos
  rw [val_zero32] at hval
  rw [ne_eq, exactUnits_eq_zero_iff, ← val_eq_zero_iff]
  exact hval.ne'

variable {z : Word} (hz : isZero z = true)
include hz

theorem zero_add32 : add32 z t = t := by
  rw [add32_eq_roundInt (isFinite_of_isZero hz) ht, exactUnits_eq_zero_iff.mpr hz, zero_add]
  exact roundInt_exactUnits ht (exactUnits_ne_zero_of_pos ht hpos) _

theorem sub32_of_isZero : sub32 t z = t := by
  rw [sub32, add32_eq_roundInt ht ((isFinite_neg32 z).trans (isFinite_of_isZero hz)), exactUnits_neg32,
    exactUnits_eq_zero_iff.mpr hz, neg_zero, add_zero]
  exact roundInt_exactUnits ht (exactUnits_ne_zero_of_pos ht hpos) _

theorem ge32_of_isZero : ge32 t z = true := by
  have hval := (gt32_iff ht (by decide)).mp hpos
  rw [ge32_iff ht (isFinite_of_isZero hz), val_eq_zero_iff.mpr hz]
  exact (val_zero32 ▸ hval).le

end

end Sys2Proof.Machine

namespace Sys2Proof.Proofs
open Machine

/-- Settles O15: no part of a tick goes to RELEASE, and of the commands only KEY_OFF does. -/
theorem onlyKeyOffEntersRelease : Obligations.OnlyKeyOffEntersRelease := by
  refine ⟨fun p dt v => not_imp_not.mp (tick_stage_ne_release p dt), ?_⟩
  intro i s t k j v w h hv hw hactive hreleased
  have hchanged : voiceAt t k j ≠ voiceAt s k j := by
    rw [hv, hw]
    rintro ⟨⟩
    exact hactive hreleased
  cases i with
  | nop =>
    cases h
    exact absurd rfl hchanged
  | keyOn inst key vel =>
    obtain heq | ⟨u, hu, hdelay⟩ := voiceAt_execKeyOn h k j
    · exact absurd heq hchanged
    · obtain rfl : w = u := Option.some.inj (hw.symm.trans hu)
      simp [hreleased] at hdelay
  | keyOff inst key =>
    have hk : inst.toNat = k := by
      by_contra hk
      exact hchanged (voiceAt_congr ((execKeyOff_frame h).2.others k (Ne.symm hk)) j)
    have hkey : v.key = key := by
      by_contra hkey
      obtain heq | heq := voiceAt_execKeyOff h k j
      · exact hchanged heq
      · rw [hv, Option.map_some, releaseVoice_of_key_ne hkey, ← hv] at heq
        exact hchanged heq
    exact ⟨inst, hk, by rw [hkey]⟩
  | writeReg inst reg value =>
    refine absurd ?_ hchanged
    rw [voiceAt_eq, voiceAt_eq, (execWriteReg_frame h).2.kept]

/-- Settles O46: the tick by stages, and with zero lengths nothing is taken from the stage time. -/
theorem tickFollowsStages : Obligations.TickFollowsStages := by
  refine ⟨fun p dt v => (tick_eq_tickByStage p dt v).trans ?_, ?_⟩
  · unfold tickByStage
    cases v.stage <;> rfl
  · intro p dt v hdelay hattack hhold hdecay hsustain hstage htime hdt hpos
    have hsum : add32 v.stageTime dt = dt := by rw [htime]; exact zero_add32 hdt hpos (by decide)
    have hge : ∀ {len}, isZero len = true → ge32 dt len = true := ge32_of_isZero hdt hpos
    have hsub : ∀ {len}, isZero len = true → sub32 dt len = dt := sub32_of_isZero hdt hpos
    calc tick p dt v = fromDelay p v dt := by rw [tick_eq_tickByStage, tickByStage, hstage, hsum]
      _ = fromAttack p v dt := by rw [fromDelay, if_pos (hge hdelay), hsub hdelay]
      _ = fromHold p v dt := by rw [fromAttack, if_pos (eq32_zero32_of_isZero hattack)]
      _ = fromDecay p v dt := by rw [fromHold, if_pos (hge hhold), hsub hhold]
      _ = fromSustain p v dt := by rw [fromDecay, if_pos (eq32_zero32_of_isZero hdecay)]
      _ = { v with stage := .sustain, stageTime := dt, volume := p.sustain } := by
        rw [fromSustain, eq32_zero32_of_pos hsustain]
        rfl

end Sys2Proof.Proofs
end

section
/-!
The frame step of a voice, written out (R162, R202, R203, R210 to R215, R220 to R222, R230).
-/
namespace Sys2Proof.Machine

theorem voiceFrame_of_idle {c : Config} {p : Params} {v : Voice} (volume : Word) (cell : Frame)
    (h : (tick p (dt32 c) v).stage = .idle) :
    voiceFrame c p volume v cell = (tick p (dt32 c) v, cell) := if_pos h

/-- A voice that sounds takes its sample and its pan from before the tick, and its gain from after. -/
theorem voiceFrame_of_active {c : Config} {p : Params} {v : Voice} (volume : Word) (cell : Frame)
    (h : (tick p (dt32 c) v).stage ≠ .idle) : voiceFrame c p volume v cell =
      ({ v with
          stage := (tick p (dt32 c) v).stage
          stageTime := (tick p (dt32 c) v).stageTime
          volume := (tick p (dt32 c) v).volume
          phase := add32 v.phase (dt32 c)
          noise := (sampleOf c p v).2 },
        accumulate c volume (sampleOf c p v).1 { v with volume := (tick p (dt32 c) v).volume } cell) := by
  rw [voiceFrame, if_neg h, tick_frame]
  rfl

/-- The index of R220 with its clamp in the usual operations. -/
theorem panLeft_eq_clamp (pan : Word) : panLeft pan =
    (max 0 (min 254 (f2iTrunc (mul32 (add32 pan one32) 0x42FE0000#32)))).toNat := by
  unfold panLeft
  dsimp only
  split
  · omega
  · split <;> omega

/-- The largest signed number rounds to 2^31 (R214). -/
theorem noiseSample_eq (r : Word) : noiseSample r = div32 (i2f32 r.toInt) 0x4F000000#32 := by
  rw [noiseSample, show i2f32 2147483647 = 0x4F000000#32 by decide +kernel]

theorem sampleOf_noise (c : Config) (p : Params) (v : Voice) :
    (sampleOf c p v).2 = if p.waveform = .noise then noiseStep v.noise else v.noise := by
  unfold sampleOf
  cases p.waveform <;> rfl

end Sys2Proof.Machine

namespace Sys2Proof.Proofs
open Machine

/-- Settles O35: the tick changes only the envelope (`tick_frame`), so the sample is that of the old
phase, note and noise. -/
theorem voiceFrameStep : Obligations.VoiceFrameStep := by
  intro c p volume v cell
  refine ⟨fun h => ?_, fun h => ?_, fun h => ?_⟩
  · have htick := tick_of_idle p (dt32 c) h
    rw [voiceFrame_of_idle volume cell (by rw [htick]; exact h), htick]
    rfl
  · rw [voiceFrame_of_idle volume cell h, tick_frame, ← h]
    rfl
  · rw [voiceFrame_of_active volume cell h, sampleOf_noise, accumulate, panRight, panLeft_eq_clamp,
      sampleOf]
    cases p.waveform with
    | noise => dsimp only; rw [noiseSample_eq]; rfl
    | _ => rfl

end Sys2Proof.Proofs
end

section
/-!
The envelope through a tick with legal registers (R169): volumes stay in [0, 1], stage times finite and not
negative.
-/
namespace Sys2Proof.Machine

/-! ### Times and volumes as reals (R31) -/

/-- A finite time, not negative: what the registers of lengths hold (R31), and a stage time. -/
def IsTime (a : Word) : Prop := isFinite a = true ∧ 0 ≤ val a

theorem isTime_zero32 : IsTime zero32 := ⟨by decide, val_zero32.ge⟩

theorem isTime_iff_ge32 {a : Word} : IsTime a ↔ isFinite a = true ∧ ge32 a zero32 = true :=
  and_congr_right fun ha => by rw [ge32_iff ha (by decide), val_zero32]

theorem inUnit_iff {a : Word} :
    inRange32 zero32 one32 a = true ↔ isFinite a = true ∧ 0 ≤ val a ∧ val a ≤ 1 := by
  obtain ⟨-, hunit, -⟩ := Proofs.legalValuesAreRealRanges a
  exact hunit .sustain (.inl rfl)

theorem inUnit_zero32 : inRange32 zero32 one32 zero32 = true := by decide

theorem isTime_of_inUnit {a : Word} (h : inRange32 zero32 one32 a = true) : IsTime a := by
  obtain ⟨hfin, h0, -⟩ := inUnit_iff.mp h
  exact ⟨hfin, h0⟩

/-- A rounded result between 0 and 1 lies in [0, 1] (R8). -/
theorem inUnit_of_roundsTo {x : ℝ} {w : Word} (h : RoundsTo x w) (h0 : 0 ≤ x) (h1 : x ≤ 1) :
    inRange32 zero32 one32 w = true := by
  obtain ⟨hone, hval⟩ := exact_one32
  refine h.inRange32_of_mem_Icc (by decide) hone ⟨?_, ?_⟩
  · simpa [val_zero32] using h0
  · simpa [hval] using h1

theorem isTime_of_legal {p : Params} (hp : paramsLegal p = true) {r : ParamReg}
    (hr : r = .delay ∨ r = .attack ∨ r = .hold ∨ r = .decay ∨ r = .release) :
    IsTime (getParam p r) :=
  ((Proofs.legalValuesAreRealRanges _).1 r hr).mp (paramsLegal_iff.mp hp r)

/-- A time that does not equal zero is positive. -/
theorem val_pos_of_not_eq32 {a : Word} (ha : IsTime a) (h : ¬eq32 a zero32 = true) : 0 < val a := by
  obtain ⟨hfin, h0⟩ := ha
  rw [eq32_iff hfin (by decide), val_zero32] at h
  exact lt_of_le_of_ne h0 (Ne.symm h)

/-! ### Stage times (R161) -/

/-- A second more does not take the largest finite value over the threshold of rounding (R8). -/
theorem isTime_add32 {a b : Word} (ha : IsTime a) (hb : inRange32 zero32 one32 b = true) :
    IsTime (add32 a b) := by
  obtain ⟨hafin, ha0⟩ := ha
  obtain ⟨hbfin, hb0, hb1⟩ := inUnit_iff.mp hb
  have hround := add32_roundsTo hafin hbfin
  have hmax : val 0x7F7FFFFF#32 = 2 ^ 128 - 2 ^ 104 := by
    have hunits : exactUnits 0x7F7FFFFF#32 = (2 ^ 128 - 2 ^ 104) * 2 ^ 149 := by decide +kernel
    rw [val, hunits]
    norm_num
  have hle : val a ≤ val 0x7F7FFFFF#32 := by
    have hkey := (isFinite_iff_orderKey.mp hafin).2
    have hmaxKey : orderKey 0x7F7FFFFF#32 = infMag - 1 := by decide
    exact orderKey_le_iff.mp (by omega)
  rw [hmax] at hle
  have hle' : (val a : ℝ) ≤ 2 ^ 128 - 2 ^ 104 := by exact_mod_cast hle
  have ha0' : (0 : ℝ) ≤ val a := by exact_mod_cast ha0
  have hb0' : (0 : ℝ) ≤ val b := by exact_mod_cast hb0
  have hb1' : (val b : ℝ) ≤ 1 := by exact_mod_cast hb1
  have hfin : isFinite (add32 a b) = true := by
    refine hround.isFinite_of_abs_lt ?_
    rw [abs_of_nonneg (add_nonneg ha0' hb0')]
    calc (val a : ℝ) + val b ≤ 2 ^ 128 - 2 ^ 104 + 1 := add_le_add hle' hb1'
      _ < 2 ^ 128 - 2 ^ 103 := by norm_num
  refine ⟨hfin, ?_⟩
  have hlow := hround.le_val hfin (c := zero32) (by decide) (by simpa [val_zero32] using by positivity)
  exact val_zero32 ▸ hlow

theorem isTime_sub32 {a b : Word} (ha : IsTime a) (hb : IsTime b) (hge : ge32 a b = true) :
    IsTime (sub32 a b) := by
  obtain ⟨hafin, -⟩ := ha
  obtain ⟨hbfin, hb0⟩ := hb
  have hle : (val b : ℝ) ≤ val a := by exact_mod_cast (ge32_iff hafin hbfin).mp hge
  have hb0' : (0 : ℝ) ≤ val b := by exact_mod_cast hb0
  have hrange := (sub32_roundsTo hafin hbfin).inRange32_of_mem_Icc (lo := zero32) (by decide) hafin
    ⟨by simpa [val_zero32] using hle, by linarith⟩
  obtain ⟨hfin, hlow, -⟩ := (inRange32_iff (by decide) hafin).mp hrange
  exact ⟨hfin, val_zero32 ▸ hlow⟩

/-! ### Volumes (R164, R166, R168) -/

section
variable {t d : Word} (ht : IsTime t) (hd : IsTime d) (hlen : ¬eq32 d zero32 = true)
  (hlt : ¬ge32 t d = true)
include ht hd hlen hlt

/-- Below its length a stage is gone through by a fraction in [0, 1]. -/
theorem div32_inUnit : inRange32 zero32 one32 (div32 t d) = true := by
  obtain ⟨htfin, ht0⟩ := ht
  have hpos := val_pos_of_not_eq32 hd hlen
  have hle : val t ≤ val d := (not_le.mp (mt (ge32_iff htfin hd.1).mpr hlt)).le
  have hpos' : (0 : ℝ) < val d := by exact_mod_cast hpos
  have ht0' : (0 : ℝ) ≤ val t := by exact_mod_cast ht0
  have hle' : (val t : ℝ) ≤ val d := by exact_mod_cast hle
  exact inUnit_of_roundsTo (div32_roundsTo htfin hd.1 hpos.ne') (div_nonneg ht0' hpos'.le)
    ((div_le_one hpos').mpr hle')

theorem attackVolume_inUnit : inRange32 zero32 one32 (min32 (div32 t d) one32) = true := by
  unfold min32
  split
  · decide
  · exact div32_inUnit ht hd hlen hlt

/-- The product in [-1, 0] and the sum in [0, 1] of R169. -/
theorem decayVolume_inUnit {s : Word} (hs : inRange32 zero32 one32 s = true) :
    inRange32 zero32 one32 (add32 one32 (mul32 (sub32 s one32) (div32 t d))) = true := by
  obtain ⟨hone, hval⟩ := exact_one32
  obtain ⟨hfin, h0, h1⟩ := inUnit_iff.mp hs
  obtain ⟨hpart, hpart0, hpart1⟩ := inUnit_iff.mp (div32_inUnit ht hd hlen hlt)
  have h0' : (0 : ℝ) ≤ val s := by exact_mod_cast h0
  have h1' : (val s : ℝ) ≤ 1 := by exact_mod_cast h1
  have hpart0' : (0 : ℝ) ≤ val (div32 t d) := by exact_mod_cast hpart0
  have hpart1' : (val (div32 t d) : ℝ) ≤ 1 := by exact_mod_cast hpart1
  obtain ⟨hfall, hlow, hhigh⟩ := (sub32_roundsTo hfin hone).mem_Icc_int (m := -1) (n := 0)
    (by decide) (by decide) (by rw [hval]; push_cast; constructor <;> linarith)
  push_cast at hlow hhigh
  obtain ⟨hprod, hlow', hhigh'⟩ := (mul32_roundsTo hfall hpart).mem_Icc_int (m := -1) (n := 0)
    (by decide) (by decide) (by push_cast; constructor <;> nlinarith)
  push_cast at hlow' hhigh'
  refine inUnit_of_roundsTo (add32_roundsTo hone hprod) ?_ ?_ <;> rw [hval] <;> push_cast <;> linarith

end

/-- An infinite loss takes any volume below zero (R8). -/
theorem le32_sub32_infinity {x : Word} (hx : isFinite x = true) :
    le32 (sub32 x (packSign false infMag)) zero32 = true := by
  have hnan : isNaN (neg32 (packSign false infMag)) = false := by decide
  have hinf : isInf (neg32 (packSign false infMag)) = true := by decide
  have hsub : sub32 x (packSign false infMag) = neg32 (packSign false infMag) := by
    simp [sub32, add32, isNaN_of_isFinite hx, isInf_of_isFinite hx, hnan, hinf]
  rw [hsub]
  decide

/-- A release takes nothing negative from the volume, and a result that is not above zero ends the note. -/
theorem releasedVolume_inUnit {x rate dt : Word} (hx : inRange32 zero32 one32 x = true)
    (hrate : IsTime rate) (hdt : IsTime dt)
    (hleft : ¬le32 (sub32 x (mul32 rate dt)) zero32 = true) :
    inRange32 zero32 one32 (sub32 x (mul32 rate dt)) = true := by
  obtain ⟨hxfin, hx0, hx1⟩ := inUnit_iff.mp hx
  have hx0' : (0 : ℝ) ≤ val x := by exact_mod_cast hx0
  have hx1' : (val x : ℝ) ≤ 1 := by exact_mod_cast hx1
  have hloss := mul32_roundsTo hrate.1 hdt.1
  have hnonneg : (0 : ℝ) ≤ val rate * val dt := by exact_mod_cast mul_nonneg hrate.2 hdt.2
  obtain hfin | hinf := hloss.isFinite_or_infinity
  · have hsub := sub32_roundsTo hxfin hfin
    have hloss0 := hloss.le_val hfin (c := zero32) (by decide) (by simpa [val_zero32] using hnonneg)
    have hloss0' : (0 : ℝ) ≤ val (mul32 rate dt) := by exact_mod_cast val_zero32 ▸ hloss0
    rcases le_total (val (mul32 rate dt) : ℝ) (val x) with hle | hle
    · exact inUnit_of_roundsTo hsub (sub_nonneg.mpr hle) (by linarith)
    · have hrange := hsub.inRange32_of_mem_Icc (lo := neg32 (mul32 rate dt)) (hi := zero32)
        ((isFinite_neg32 _).trans hfin) (by decide) (by
          rw [val_neg32, val_zero32]
          push_cast
          constructor <;> linarith)
      rw [inRange32, Bool.and_eq_true] at hrange
      exact absurd hrange.2 hleft
  · rw [hinf, decide_eq_false hnonneg.not_gt] at hleft
    exact absurd (le32_sub32_infinity hxfin) hleft

/-! ### Where a stage ends (R163 to R168) -/

theorem envelopeInRange_setEnvelope {v : Voice} {stage : Stage} {t x : Word} (ht : IsTime t)
    (hx : inRange32 zero32 one32 x = true) : EnvelopeInRange (v.setEnvelope stage t x) :=
  ⟨hx, isTime_iff_ge32.mp ht⟩

theorem envelopeInRange_zero (v : Voice) (stage : Stage) :
    EnvelopeInRange (v.setEnvelope stage zero32 zero32) :=
  envelopeInRange_setEnvelope isTime_zero32 inUnit_zero32

section
variable {p : Params} (hp : paramsLegal p = true) (v : Voice) {t : Word} (ht : IsTime t)
include hp

theorem sustain_inUnit : inRange32 zero32 one32 p.sustain = true := paramsLegal_iff.mp hp .sustain

theorem isTime_delay : IsTime p.delay := isTime_of_legal hp (r := .delay) (by simp)
theorem isTime_attack : IsTime p.attack := isTime_of_legal hp (r := .attack) (by simp)
theorem isTime_hold : IsTime p.hold := isTime_of_legal hp (r := .hold) (by simp)
theorem isTime_decay : IsTime p.decay := isTime_of_legal hp (r := .decay) (by simp)
theorem isTime_release : IsTime p.release := isTime_of_legal hp (r := .release) (by simp)

include ht

theorem envelopeInRange_fromSustain : EnvelopeInRange (fromSustain p v t) := by
  unfold fromSustain
  split
  · exact envelopeInRange_zero v _
  · exact envelopeInRange_setEnvelope ht (sustain_inUnit hp)

theorem envelopeInRange_fromDecay : EnvelopeInRange (fromDecay p v t) := by
  unfold fromDecay
  split
  · exact envelopeInRange_fromSustain hp v ht
  · next hlen =>
    split
    · next hge => exact envelopeInRange_fromSustain hp v (isTime_sub32 ht (isTime_decay hp) hge)
    · next hlt =>
      exact envelopeInRange_setEnvelope ht
        (decayVolume_inUnit ht (isTime_decay hp) hlen hlt (sustain_inUnit hp))

theorem envelopeInRange_fromHold : EnvelopeInRange (fromHold p v t) := by
  unfold fromHold
  split
  · next hge => exact envelopeInRange_fromDecay hp v (isTime_sub32 ht (isTime_hold hp) hge)
  · exact envelopeInRange_setEnvelope ht (by decide)

theorem envelopeInRange_fromAttack : EnvelopeInRange (fromAttack p v t) := by
  unfold fromAttack
  split
  · exact envelopeInRange_fromHold hp v ht
  · next hlen =>
    split
    · next hge => exact envelopeInRange_fromHold hp v (isTime_sub32 ht (isTime_attack hp) hge)
    · next hlt =>
      exact envelopeInRange_setEnvelope ht
        (attackVolume_inUnit ht (isTime_attack hp) hlen hlt)

theorem envelopeInRange_fromDelay : EnvelopeInRange (fromDelay p v t) := by
  unfold fromDelay
  split
  · next hge => exact envelopeInRange_fromAttack hp v (isTime_sub32 ht (isTime_delay hp) hge)
  · exact envelopeInRange_setEnvelope ht (by decide)

theorem envelopeInRange_fromRelease {dt : Word} (hdt : IsTime dt)
    (hv : inRange32 zero32 one32 v.volume = true) : EnvelopeInRange (fromRelease p dt v t) := by
  unfold fromRelease
  split
  · exact envelopeInRange_zero v _
  · next hlives =>
    exact envelopeInRange_setEnvelope ht
      (releasedVolume_inUnit hv (isTime_release hp) hdt (not_or.mp hlives).2)

end

/-! ### The tick and the other changes of a voice -/

theorem envelopeInRange_tick {p : Params} {dt : Word} {v : Voice} (hp : paramsLegal p = true)
    (hdt : inRange32 zero32 one32 dt = true) (hv : EnvelopeInRange v) :
    EnvelopeInRange (tick p dt v) := by
  obtain ⟨hvolume, htime⟩ := hv
  have ht := isTime_add32 (isTime_iff_ge32.mpr htime) hdt
  rw [tick_eq_tickByStage, tickByStage]
  split
  · exact ⟨inUnit_zero32, htime⟩
  · exact envelopeInRange_fromDelay hp v ht
  · exact envelopeInRange_fromAttack hp v ht
  · exact envelopeInRange_fromHold hp v ht
  · exact envelopeInRange_fromDecay hp v ht
  · exact envelopeInRange_fromSustain hp v ht
  · exact envelopeInRange_fromRelease hp v ht (isTime_of_inUnit hdt) hvolume

theorem envelopeInRange_kept : LegalVoiceKept EnvelopeInRange where
  place {_} _ _ {_ v} _ _ _ := envelopeInRange_zero v .delay
  release _ _ {v} hv := by
    unfold releaseVoice
    split
    · exact envelopeInRange_setEnvelope (v := v) (stage := .release) isTime_zero32 hv.1
    · exact hv
  frame {c p} _ {v} _ hwf hp hv := by
    have htick := envelopeInRange_tick hp (dt32_inUnit hwf) hv
    unfold voiceFrame
    dsimp only
    split <;> exact htick
  reset _ := envelopeInRange_resetVoice _

end Sys2Proof.Machine

namespace Sys2Proof.Proofs
open Machine

/-- Settles O44: with legal registers each stage ends a tick in range, and so does every other change of a
voice. -/
theorem volumesStayInUnitRange : Obligations.VolumesStayInUnitRange :=
  fun _ _ hlegal hs ht => envelopeInRange_kept.step hlegal hs ht

end Sys2Proof.Proofs
end

section
/-!
The noise generator (R214) never joins two states, so it keeps them nonzero.
-/
namespace Sys2Proof.Machine

/-! ### One shift and exclusive or -/

/-- x xor f x tells any two states apart, if f is additive and in the end shifts everything out: what
two states with one image differ by is a fixed point of f. -/
theorem xor_map_injective {w : Nat} {f : BitVec w → BitVec w}
    (hadd : ∀ a b, f (a ^^^ b) = f a ^^^ f b) (hout : ∀ x, f^[w] x = 0) : Function.Injective fun x => x ^^^ f x := by
  intro a b h
  have hfixed : f (a ^^^ b) = a ^^^ b := by
    rw [hadd]
    have hdiff := BitVec.xor_eq_zero_iff.mpr h
    rw [show a ^^^ f a ^^^ (b ^^^ f b) = f a ^^^ f b ^^^ (a ^^^ b) by ac_rfl] at hdiff
    exact BitVec.xor_eq_zero_iff.mp hdiff
  exact BitVec.xor_eq_zero_iff.mp ((Function.iterate_fixed hfixed w).symm.trans (hout _))

theorem iterate_shiftLeft {w : Nat} (x : BitVec w) (k n : Nat) :
    (fun y : BitVec w => y <<< k)^[n] x = x <<< (k * n) := by
  induction n with
  | zero => simp
  | succ n ih => rw [Function.iterate_succ_apply', ih, Nat.mul_succ, BitVec.shiftLeft_add]

theorem iterate_ushiftRight {w : Nat} (x : BitVec w) (k n : Nat) :
    (fun y : BitVec w => y >>> k)^[n] x = x >>> (k * n) := by
  induction n with
  | zero => simp
  | succ n ih => rw [Function.iterate_succ_apply', ih, Nat.mul_succ, BitVec.shiftRight_add]

theorem xor_shiftLeft_injective {w k : Nat} (hk : 0 < k) :
    Function.Injective fun x : BitVec w => x ^^^ (x <<< k) :=
  xor_map_injective (fun a b => BitVec.shiftLeft_xor_distrib a b k) fun x => by
    rw [iterate_shiftLeft]
    exact BitVec.shiftLeft_eq_zero (Nat.le_mul_of_pos_left w hk)

theorem xor_ushiftRight_injective {w k : Nat} (hk : 0 < k) :
    Function.Injective fun x : BitVec w => x ^^^ (x >>> k) :=
  xor_map_injective (fun a b => BitVec.ushiftRight_xor_distrib a b k) fun x => by
    rw [iterate_ushiftRight]
    exact BitVec.ushiftRight_eq_zero (Nat.le_mul_of_pos_left w hk)

/-! ### The generator -/

theorem noiseStep_injective : Function.Injective noiseStep :=
  (xor_shiftLeft_injective (k := 5) (by norm_num)).comp
    ((xor_ushiftRight_injective (k := 17) (by norm_num)).comp
      (xor_shiftLeft_injective (k := 13) (by norm_num)))

theorem noiseStep_zero : noiseStep 0#32 = 0#32 := by decide

theorem noiseAlive_kept : VoiceKept NoiseAlive where
  place _ _ _ _ _ _ hv := hv
  release _ _ _ hv := by
    unfold releaseVoice
    split <;> exact hv
  frame c p volume v cell hv := by
    by_cases hidle : (tick p (dt32 c) v).stage = .idle
    · rw [voiceFrame_of_idle volume cell hidle, tick_frame]
      exact hv
    · rw [voiceFrame_of_active volume cell hidle, NoiseAlive, sampleOf_noise]
      dsimp only
      split
      · rw [← noiseStep_zero]
        exact noiseStep_injective.ne hv
      · exact hv
  reset hseed := hseed

end Sys2Proof.Machine

namespace Sys2Proof.Proofs
open Machine

/-- Settles O43: the generator takes only 0 to 0, and nothing else but RESET, with nonzero seeds, sets a
noise state. -/
theorem noiseStatesNeverDie : Obligations.NoiseStatesNeverDie :=
  fun _ _ hs ht => noiseAlive_kept.kept.step hs ht

end Sys2Proof.Proofs
end

section
/-!
Real bounds on rounded results (R8): a bound that is itself a binary32 value survives rounding.
-/
namespace Sys2Proof.Machine

/-- The real x is a finite binary32 value (R7). -/
def IsBinary32 (x : ℝ) : Prop := ∃ c, isFinite c = true ∧ (val c : ℝ) = x

/-- w is finite and its value lies in [lo, hi]. -/
def FiniteIn (w : Word) (lo hi : ℝ) : Prop := isFinite w = true ∧ (val w : ℝ) ∈ Set.Icc lo hi

/-! ### Binary32 values -/

theorem isBinary32_val {a : Word} (ha : isFinite a = true) : IsBinary32 (val a) := ⟨a, ha, rfl⟩

theorem IsBinary32.neg {x : ℝ} (h : IsBinary32 x) : IsBinary32 (-x) := by
  obtain ⟨c, hc, rfl⟩ := h
  exact ⟨neg32 c, (isFinite_neg32 c).trans hc, by simp⟩

@[simp] theorem isBinary32_neg_iff {x : ℝ} : IsBinary32 (-x) ↔ IsBinary32 x :=
  ⟨fun h => neg_neg x ▸ h.neg, .neg⟩

theorem IsBinary32.abs {x : ℝ} (h : IsBinary32 x) : IsBinary32 |x| := by
  obtain heq | heq := abs_choice x <;> rw [heq]
  · exact h
  · exact h.neg

/-- Whole multiples of a power of two, with at most 24 bits and no overflow. -/
theorem isBinary32_of_significand {m : Int} {e : Nat} (hm : m.natAbs ≤ 2 ^ 24)
    (hlt : |(m : ℝ) * 2 ^ e / 2 ^ 149| < 2 ^ 128) : IsBinary32 (m * 2 ^ e / 2 ^ 149) := by
  have hunits : m.natAbs * 2 ^ e < 2 ^ 24 * 2 ^ 253 := by
    rw [abs_div, abs_mul, abs_of_pos (by positivity : (0 : ℝ) < 2 ^ e),
      abs_of_pos (by positivity : (0 : ℝ) < 2 ^ 149), div_lt_iff₀ (by positivity), ← Int.cast_abs,
      Int.abs_eq_natAbs, show (2 : ℝ) ^ 128 * 2 ^ 149 = 2 ^ 24 * 2 ^ 253 by norm_num] at hlt
    exact_mod_cast hlt
  obtain ⟨p, hp, hp'⟩ := exists_unitsOf_eq e hm hunits
  obtain ⟨hfin, hexact⟩ := exactUnits_roundInt (z := m * 2 ^ e) hp
    (by rw [hp', Int.natAbs_mul, Int.natAbs_pow]; rfl) false
  refine ⟨_, hfin, ?_⟩
  rw [val, hexact]
  push_cast
  rfl

/-- A pattern's value in that form (R7). -/
theorem exists_exactUnits_eq (a : Word) :
    ∃ (m : Int) (e : Nat), m.natAbs < 2 ^ 24 ∧ exactUnits a = m * 2 ^ e := by
  obtain ⟨m, e, hm, hunits⟩ := unitsOf_eq_mul_two_pow (magBits a)
  unfold exactUnits
  rw [hunits]
  split
  · exact ⟨-m, e, by omega, by push_cast; ring⟩
  · exact ⟨m, e, by omega, by push_cast; ring⟩

theorem IsBinary32.exists_significand {x : ℝ} (h : IsBinary32 x) :
    ∃ (m : Int) (e : Nat), m.natAbs < 2 ^ 24 ∧ x = m * 2 ^ e / 2 ^ 149 := by
  obtain ⟨c, -, rfl⟩ := h
  obtain ⟨m, e, hm, hunits⟩ := exists_exactUnits_eq c
  refine ⟨m, e, hm, ?_⟩
  rw [val, hunits]
  push_cast
  rfl

theorem isBinary32_mul_zpow {m e : Int} (hm : m.natAbs ≤ 2 ^ 24) (hlow : -149 ≤ e)
    (hhigh : e ≤ 103) : IsBinary32 (m * 2 ^ e) := by
  have hexp : (2 : ℝ) ^ e = 2 ^ (e + 149).toNat / 2 ^ 149 := by
    rw [← zpow_natCast, Int.toNat_of_nonneg (by omega), zpow_add₀ two_ne_zero, zpow_ofNat]
    field_simp
  rw [hexp, ← mul_div_assoc]
  refine isBinary32_of_significand hm ?_
  have hm' : |(m : ℝ)| ≤ 2 ^ 24 := by
    rw [← Int.cast_abs, Int.abs_eq_natAbs]
    exact_mod_cast hm
  rw [mul_div_assoc, ← hexp, abs_mul, abs_of_pos (by positivity : (0 : ℝ) < 2 ^ e)]
  have hpow : (2 : ℝ) ^ e ≤ 2 ^ (103 : Int) := zpow_le_zpow_right₀ one_le_two hhigh
  rw [zpow_ofNat] at hpow
  calc |(m : ℝ)| * 2 ^ e ≤ 2 ^ 24 * 2 ^ 103 := by gcongr
    _ < 2 ^ 128 := by norm_num

theorem isBinary32_int {m : Int} (hm : m.natAbs ≤ 2 ^ 24) : IsBinary32 m := by
  simpa using isBinary32_mul_zpow hm (e := 0) (by norm_num) (by norm_num)

@[simp] theorem isBinary32_zero : IsBinary32 0 := by
  simpa using isBinary32_int (m := 0) (by norm_num)

@[simp] theorem isBinary32_one : IsBinary32 1 := by
  simpa using isBinary32_int (m := 1) (by norm_num)

@[simp] theorem isBinary32_two : IsBinary32 2 := by
  simpa using isBinary32_int (m := 2) (by norm_num)

@[simp] theorem isBinary32_three : IsBinary32 3 := by
  simpa using isBinary32_int (m := 3) (by norm_num)

@[simp] theorem isBinary32_two_pow {n : Nat} (hn : n ≤ 103) : IsBinary32 (2 ^ n) := by
  simpa using isBinary32_mul_zpow (m := 1) (e := n) (by norm_num) (by omega) (by omega)

@[simp] theorem isBinary32_two_pow_inv {n : Nat} (hn : n ≤ 149) : IsBinary32 ((2 ^ n)⁻¹) := by
  simpa using isBinary32_mul_zpow (m := 1) (e := -n) (by norm_num) (by omega) (by omega)

/-! ### Rounding within bounds -/

section
variable {x lo hi : ℝ} {w : Word}

theorem finiteIn_of_roundsTo (h : RoundsTo x w) (hlow : lo ≤ x) (hhigh : x ≤ hi)
    (hlo : IsBinary32 lo := by simp) (hhi : IsBinary32 hi := by simp) : FiniteIn w lo hi := by
  obtain ⟨c, hc, rfl⟩ := hlo
  obtain ⟨c', hc', rfl⟩ := hhi
  obtain ⟨hfin, h1, h2⟩ :=
    (inRange32_iff hc hc').mp (h.inRange32_of_mem_Icc hc hc' ⟨hlow, hhigh⟩)
  exact ⟨hfin, by exact_mod_cast h1, by exact_mod_cast h2⟩

/-- A binary32 value is not rounded. -/
theorem val_eq_of_roundsTo (h : RoundsTo x w) (hx : IsBinary32 x) :
    isFinite w = true ∧ (val w : ℝ) = x := by
  obtain ⟨hfin, hlow, hhigh⟩ := finiteIn_of_roundsTo h le_rfl le_rfl hx hx
  exact ⟨hfin, le_antisymm hhigh hlow⟩

theorem finiteIn_iff_inRange32 {m n : Int} {lo hi : Word}
    (hlo : isFinite lo = true ∧ exactUnits lo = m * 2 ^ 149)
    (hhi : isFinite hi = true ∧ exactUnits hi = n * 2 ^ 149) :
    FiniteIn w m n ↔ inRange32 lo hi w = true := by
  rw [inRange32_iff_of_units hlo hhi, FiniteIn, Set.mem_Icc]
  norm_cast

end

/-! ### Arithmetic on bounds -/

theorem FiniteIn.mono {w : Word} {lo hi lo' hi' : ℝ} (h : FiniteIn w lo hi) (hlo : lo' ≤ lo)
    (hhi : hi ≤ hi') : FiniteIn w lo' hi' :=
  ⟨h.1, hlo.trans h.2.1, h.2.2.trans hhi⟩

theorem FiniteIn.abs_val_le {w : Word} {b : ℝ} (h : FiniteIn w (-b) b) : |(val w : ℝ)| ≤ b :=
  abs_le.mpr h.2

/-- A pattern whose units are those of the whole number z. -/
theorem finiteIn_of_exactUnits {z : Int} {a : Word}
    (h : isFinite a = true ∧ exactUnits a = z * 2 ^ 149) : FiniteIn a z z := by
  obtain ⟨hfin, hunits⟩ := h
  have hval : val a = z := by
    rw [val, hunits, Int.cast_mul, Int.cast_pow, Int.cast_ofNat,
      mul_div_cancel_right₀ _ (by positivity)]
  exact ⟨hfin, by simp [hval]⟩

section
variable {a b : Word} {l h l' h' lo hi : ℝ} (ha : FiniteIn a l h) (hb : FiniteIn b l' h')
include ha hb

theorem FiniteIn.add32 (hlow : lo ≤ l + l') (hhigh : h + h' ≤ hi)
    (hlo : IsBinary32 lo := by simp) (hhi : IsBinary32 hi := by simp) :
    FiniteIn (add32 a b) lo hi := by
  obtain ⟨ha, hal, hah⟩ := ha
  obtain ⟨hb, hbl, hbh⟩ := hb
  exact finiteIn_of_roundsTo (add32_roundsTo ha hb) (by linarith) (by linarith) hlo hhi

theorem FiniteIn.sub32 (hlow : lo ≤ l - h') (hhigh : h - l' ≤ hi)
    (hlo : IsBinary32 lo := by simp) (hhi : IsBinary32 hi := by simp) :
    FiniteIn (sub32 a b) lo hi := by
  obtain ⟨ha, hal, hah⟩ := ha
  obtain ⟨hb, hbl, hbh⟩ := hb
  exact finiteIn_of_roundsTo (sub32_roundsTo ha hb) (by linarith) (by linarith) hlo hhi

theorem FiniteIn.mul32 (hl : 0 ≤ l) (hl' : 0 ≤ l') (hlow : lo ≤ l * l') (hhigh : h * h' ≤ hi)
    (hlo : IsBinary32 lo := by simp) (hhi : IsBinary32 hi := by simp) :
    FiniteIn (mul32 a b) lo hi := by
  obtain ⟨ha, hal, hah⟩ := ha
  obtain ⟨hb, hbl, hbh⟩ := hb
  refine finiteIn_of_roundsTo (mul32_roundsTo ha hb) (hlow.trans ?_) (le_trans ?_ hhigh) hlo hhi
  · exact mul_le_mul hal hbl hl' (hl.trans hal)
  · exact mul_le_mul hah hbh (hl'.trans hbl) ((hl.trans hal).trans hah)

theorem FiniteIn.div32 (hl : 0 ≤ l) (hl' : 0 < l') (hlow : lo ≤ l / h') (hhigh : h / l' ≤ hi)
    (hlo : IsBinary32 lo := by simp) (hhi : IsBinary32 hi := by simp) :
    FiniteIn (div32 a b) lo hi := by
  obtain ⟨ha, hal, hah⟩ := ha
  obtain ⟨hb, hbl, hbh⟩ := hb
  have hpos : (0 : ℝ) < val b := hl'.trans_le hbl
  have hne : val b ≠ 0 := by exact_mod_cast hpos.ne'
  refine finiteIn_of_roundsTo (div32_roundsTo ha hb hne) (hlow.trans ?_) (le_trans ?_ hhigh) hlo hhi
  · exact div_le_div₀ (hl.trans hal) hal hpos hbh
  · exact div_le_div₀ ((hl.trans hal).trans hah) hah hl' hbl

end

/-- Factors and divisors of either sign, by their magnitudes. -/
theorem FiniteIn.mul32_abs {a b : Word} {h h' c : ℝ} (ha : FiniteIn a (-h) h)
    (hb : FiniteIn b (-h') h') (hc : h * h' ≤ c) (hbin : IsBinary32 c := by simp) :
    FiniteIn (Machine.mul32 a b) (-c) c := by
  have hprod : |(val a : ℝ) * val b| ≤ c := by
    rw [abs_mul]
    exact (mul_le_mul ha.abs_val_le hb.abs_val_le (abs_nonneg _)
      ((abs_nonneg _).trans ha.abs_val_le)).trans hc
  obtain ⟨hlow, hhigh⟩ := abs_le.mp hprod
  exact finiteIn_of_roundsTo (mul32_roundsTo ha.1 hb.1) hlow hhigh hbin.neg hbin

theorem FiniteIn.div32_abs {a b : Word} {h l' h' c : ℝ} (ha : FiniteIn a (-h) h)
    (hb : FiniteIn b l' h') (hl' : 0 < l') (hc : h / l' ≤ c) (hbin : IsBinary32 c := by simp) :
    FiniteIn (Machine.div32 a b) (-c) c := by
  have hpos : (0 : ℝ) < val b := hl'.trans_le hb.2.1
  have hne : val b ≠ 0 := by exact_mod_cast hpos.ne'
  have hquot : |(val a : ℝ) / val b| ≤ c := by
    rw [abs_div, abs_of_pos hpos]
    exact (div_le_div₀ ((abs_nonneg _).trans ha.abs_val_le) ha.abs_val_le hl' hb.2.1).trans hc
  obtain ⟨hlow, hhigh⟩ := abs_le.mp hquot
  exact finiteIn_of_roundsTo (div32_roundsTo ha.1 hb.1 hne) hlow hhigh hbin.neg hbin

end Sys2Proof.Machine
end

section
/-!
Noise samples (R214), pan indices (R220), and the segments of polyBLEP (R205, R211).
-/
namespace Sys2Proof.Machine

/-! ### Noise samples and pan indices -/

/-- A signed number over 2^31, rounded before and after the division (R214). -/
theorem finiteIn_noiseSample (r : Word) : FiniteIn (noiseSample r) (-1) 1 := by
  have hlow : -2 ^ 31 ≤ r.toInt := BitVec.le_toInt r
  have hhigh : r.toInt ≤ 2 ^ 31 := (BitVec.toInt_lt (x := r)).le
  have hnum : FiniteIn (i2f32 r.toInt) (-2 ^ 31) (2 ^ 31) :=
    finiteIn_of_roundsTo (i2f32_roundsTo _) (by exact_mod_cast hlow) (by exact_mod_cast hhigh)
  have hden : FiniteIn 0x4F000000#32 (2 ^ 31) (2 ^ 31) :=
    (finiteIn_of_exactUnits (z := 2147483648) (by decide)).mono (by norm_num) (by norm_num)
  rw [noiseSample_eq]
  exact hnum.div32_abs hden (by norm_num) (by norm_num)

theorem panLeft_le (pan : Word) : panLeft pan ≤ 254 := by
  rw [panLeft_eq_clamp]
  omega

/-! ### Squares in [0, 1] -/

/-- From 1/2 to 1 a value is a multiple of 2^-24, so twice it less 1 is one of 2^-23. -/
theorem isBinary32_two_mul_sub_one {x : ℝ} (h : IsBinary32 x) (hlow : 1 / 2 ≤ x) (hhigh : x ≤ 1) :
    IsBinary32 (2 * x - 1) := by
  obtain ⟨m, e, hm, rfl⟩ := h.exists_significand
  have hm' : (m : ℝ) < 2 ^ 24 := by exact_mod_cast (by omega : m < 2 ^ 24)
  have he : 125 ≤ e := by
    by_contra he
    have hpow : (2 : ℝ) ^ e ≤ 2 ^ 124 := pow_le_pow_right₀ one_le_two (by omega)
    have hlt : (m : ℝ) * 2 ^ e < 2 ^ 24 * 2 ^ 124 := by
      calc (m : ℝ) * 2 ^ e < 2 ^ 24 * 2 ^ e := by gcongr
        _ ≤ 2 ^ 24 * 2 ^ 124 := by gcongr
    rw [le_div_iff₀ (by positivity)] at hlow
    linarith
  obtain ⟨j, rfl⟩ := Nat.exists_eq_add_of_le he
  have hk : (m : ℝ) * 2 ^ (125 + j) / 2 ^ 149 = ((m * 2 ^ j : Int) : ℝ) / 2 ^ 24 := by
    push_cast
    rw [pow_add]
    ring
  rw [hk] at hlow hhigh ⊢
  generalize m * 2 ^ j = k at *
  rw [le_div_iff₀ (by positivity)] at hlow
  rw [div_le_one (by positivity)] at hhigh
  have hlow' : 2 ^ 23 ≤ k := by exact_mod_cast (by linarith : (2 : ℝ) ^ 23 ≤ k)
  have hhigh' : k ≤ 2 ^ 24 := by exact_mod_cast hhigh
  have hbin := isBinary32_mul_zpow (m := k - 2 ^ 23) (e := -23) (by omega) (by norm_num)
    (by norm_num)
  convert hbin using 1
  push_cast
  rw [zpow_neg, zpow_ofNat]
  field_simp
  ring

theorem isBinary32_two_mul {x : ℝ} (h : IsBinary32 x) (hx : |x| ≤ 1) : IsBinary32 (2 * x) := by
  obtain ⟨m, e, hm, rfl⟩ := h.exists_significand
  have hshift : 2 * ((m : ℝ) * 2 ^ e / 2 ^ 149) = m * 2 ^ (e + 1) / 2 ^ 149 := by ring
  rw [hshift]
  refine isBinary32_of_significand hm.le ?_
  rw [← hshift, abs_mul, abs_two]
  linarith

/-- The rounded square keeps the exact one's place between 2|y| - 1 and |y|, which are binary32
values. -/
theorem square_bounds {y : Word} (hy : FiniteIn y (-1) 1) : isFinite (mul32 y y) = true ∧
    0 ≤ (val (mul32 y y) : ℝ) ∧ 2 * |(val y : ℝ)| - 1 ≤ val (mul32 y y) ∧
      (val (mul32 y y) : ℝ) ≤ |(val y : ℝ)| := by
  have habs := (isBinary32_val hy.1).abs
  have hy1 := hy.abs_val_le
  have hround := mul32_roundsTo hy.1 hy.1
  rw [← abs_mul_abs_self] at hround
  have hy0 : 0 ≤ |(val y : ℝ)| := abs_nonneg _
  generalize |(val y : ℝ)| = x at *
  obtain ⟨hfin, hlow, hhigh⟩ :=
    finiteIn_of_roundsTo hround (mul_nonneg hy0 hy0) (mul_le_of_le_one_left hy0 hy1) (hhi := habs)
  refine ⟨hfin, hlow, ?_, hhigh⟩
  rcases le_total (1 / 2) x with hhalf | hhalf
  · exact (finiteIn_of_roundsTo hround (by nlinarith) (mul_le_of_le_one_left hy0 hy1)
      (isBinary32_two_mul_sub_one habs hhalf hy1) habs).2.1
  · linarith

theorem val_double {y : Word} (hy : FiniteIn y (-1) 1) :
    isFinite (add32 y y) = true ∧ (val (add32 y y) : ℝ) = 2 * val y := by
  have hround := add32_roundsTo hy.1 hy.1
  rw [← two_mul] at hround
  exact val_eq_of_roundsTo hround (isBinary32_two_mul (isBinary32_val hy.1) hy.abs_val_le)

/-! ### The segments of polyBLEP (R205) -/

theorem finiteIn_one32 : FiniteIn one32 1 1 := by
  simpa using finiteIn_of_exactUnits (a := one32) (z := 1) (by decide)

/-- The after-edge segment: 2y - y^2 - 1, and y - y^2 - 1 with coefficient 1, for y in [0, 1]. -/
theorem finiteIn_afterEdge {y : Word} (hy : FiniteIn y 0 1) :
    FiniteIn (sub32 (sub32 (add32 y y) (mul32 y y)) one32) (-1) 0 ∧
      FiniteIn (sub32 (sub32 y (mul32 y y)) one32) (-1) 0 := by
  have hy' : FiniteIn y (-1) 1 := hy.mono (by norm_num) le_rfl
  obtain ⟨hsq, hsq0, hsqLow, hsqHigh⟩ := square_bounds hy'
  obtain ⟨hdouble, hdoubleVal⟩ := val_double hy'
  obtain ⟨hyfin, hy0, hy1⟩ := hy
  rw [abs_of_nonneg hy0] at hsqLow hsqHigh
  constructor
  · have hdiff : FiniteIn (sub32 (add32 y y) (mul32 y y)) 0 1 :=
      finiteIn_of_roundsTo (sub32_roundsTo hdouble hsq) (by linarith) (by linarith)
    exact hdiff.sub32 finiteIn_one32 (by norm_num) (by norm_num)
  · have hdiff : FiniteIn (sub32 y (mul32 y y)) 0 1 :=
      finiteIn_of_roundsTo (sub32_roundsTo hyfin hsq) (by linarith) (by linarith)
    exact hdiff.sub32 finiteIn_one32 (by norm_num) (by norm_num)

/-- The before-edge segment: y^2 + 2y + 1 for y in [-1, 0]. -/
theorem finiteIn_beforeEdge {y : Word} (hy : FiniteIn y (-1) 0) :
    FiniteIn (add32 (add32 (mul32 y y) (add32 y y)) one32) 0 1 := by
  have hy' : FiniteIn y (-1) 1 := hy.mono le_rfl (by norm_num)
  obtain ⟨hsq, hsq0, hsqLow, hsqHigh⟩ := square_bounds hy'
  obtain ⟨hdouble, hdoubleVal⟩ := val_double hy'
  obtain ⟨hyfin, hy0, hy1⟩ := hy
  rw [abs_of_nonpos hy1] at hsqLow hsqHigh
  have hsum : FiniteIn (add32 (mul32 y y) (add32 y y)) (-1) 0 :=
    finiteIn_of_roundsTo (add32_roundsTo hsq hdouble) (by linarith) (by linarith)
  exact hsum.add32 finiteIn_one32 (by norm_num) (by norm_num)

theorem blep_of_lt {t d : Word} (h : lt32 t d = true) :
    blep .two t d =
        sub32 (sub32 (add32 (div32 t d) (div32 t d)) (mul32 (div32 t d) (div32 t d))) one32 ∧
      blep .one t d = sub32 (sub32 (div32 t d) (mul32 (div32 t d) (div32 t d))) one32 :=
  ⟨if_pos h, if_pos h⟩

theorem blep_of_not_lt {t d : Word} (h : lt32 t d = false) (coeff : BlepCoeff) :
    blep coeff t d =
      if gt32 t (sub32 one32 d) then
        add32 (add32 (mul32 (div32 (sub32 t one32) d) (div32 (sub32 t one32) d))
          (add32 (div32 (sub32 t one32) d) (div32 (sub32 t one32) d))) one32
      else zero32 :=
  if_neg (ne_true_of_eq_false h)

section
variable {t d : Word} (ht : FiniteIn t 0 1) (hd : isFinite d = true) (hpos : 0 < val d)
include ht hd hpos

theorem finiteIn_blep_of_lt (h : lt32 t d = true) (coeff : BlepCoeff) :
    FiniteIn (blep coeff t d) (-1) 0 := by
  obtain ⟨htfin, ht0, -⟩ := ht
  have hpos' : (0 : ℝ) < val d := by exact_mod_cast hpos
  have hlt : (val t : ℝ) < val d := by exact_mod_cast (lt32_iff htfin hd).mp h
  have hquot : FiniteIn (div32 t d) 0 1 :=
    finiteIn_of_roundsTo (div32_roundsTo htfin hd hpos.ne') (div_nonneg ht0 hpos'.le)
      ((div_le_one hpos').mpr hlt.le)
  obtain ⟨htwo, hone⟩ := blep_of_lt h
  obtain ⟨hafter, hafter'⟩ := finiteIn_afterEdge hquot
  cases coeff with
  | one => rw [hone]; exact hafter'
  | two => rw [htwo]; exact hafter

/-- A cycle position above the rounded 1 - d is above the exact one, so it is less than d from the
edge. -/
theorem finiteIn_blep_of_not_lt (h : lt32 t d = false) (coeff : BlepCoeff) :
    FiniteIn (blep coeff t d) 0 1 := by
  obtain ⟨htfin, ht0, ht1⟩ := ht
  obtain ⟨hone, hone'⟩ := exact_one32
  have hpos' : (0 : ℝ) < val d := by exact_mod_cast hpos
  have hge : (val d : ℝ) ≤ val t := by
    rw [← Bool.not_eq_true, lt32_iff htfin hd, not_lt] at h
    exact_mod_cast h
  rw [blep_of_not_lt h]
  split
  · next hgt =>
    refine finiteIn_beforeEdge ?_
    have hround := sub32_roundsTo hone hd
    rw [hone', Rat.cast_one] at hround
    obtain ⟨hfin, -⟩ := finiteIn_of_roundsTo (lo := 0) (hi := 1) hround (by linarith) (by linarith)
    have hclose : 1 - (val d : ℝ) < val t := by
      by_contra hle
      have hle' := hround.le_val hfin htfin (not_lt.mp hle)
      exact absurd ((gt32_iff htfin hfin).mp hgt) (not_lt.mpr hle')
    have hdiff : FiniteIn (sub32 t one32) (-val d) 0 :=
      finiteIn_of_roundsTo (sub32_roundsTo htfin hone) (by rw [hone']; push_cast; linarith)
        (by rw [hone']; push_cast; linarith) (isBinary32_val hd).neg
    obtain ⟨hdiffin, hdlow, hdhigh⟩ := hdiff
    refine finiteIn_of_roundsTo (div32_roundsTo hdiffin hd hpos.ne') ?_ ?_
    · rw [le_div_iff₀ hpos']; linarith
    · exact div_nonpos_of_nonpos_of_nonneg hdhigh hpos'.le
  · exact ⟨by decide, by simp [val_zero32]⟩

theorem finiteIn_blep (coeff : BlepCoeff) : FiniteIn (blep coeff t d) (-1) 1 := by
  cases h : lt32 t d with
  | true => exact (finiteIn_blep_of_lt ht hd hpos h coeff).mono le_rfl (by norm_num)
  | false => exact (finiteIn_blep_of_not_lt ht hd hpos h coeff).mono (by norm_num) le_rfl

end

theorem finiteIn_unit_iff {t : Word} : FiniteIn t 0 1 ↔ inRange32 zero32 one32 t = true := by
  simpa using finiteIn_iff_inRange32 (w := t) (m := 0) (n := 1) (by decide) (by decide)

theorem val_pos_of_gt32 {d : Word} (hd : isFinite d = true) (h : gt32 d zero32 = true) :
    0 < val d := by
  have hgt := (gt32_iff hd (by decide)).mp h
  rwa [val_zero32] at hgt

theorem le32_of_lt32 {a b : Word} (h : lt32 a b = true) : le32 a b = true := by
  simp only [lt32, le32, Bool.and_eq_true, decide_eq_true_eq] at h ⊢
  exact ⟨h.1, h.2.le⟩

/-- A quotient of +0.0 by a positive value is +0.0. -/
theorem div32_zero32 {d : Word} (hd : isFinite d = true) (hpos : 0 < val d) :
    div32 zero32 d = zero32 := by
  have hzero : isZero d = false := by rw [← Bool.not_eq_true, ← val_eq_zero_iff]; exact hpos.ne'
  have hunits : roundUnits 0 (unitsOf (magBits d)) = 0 := by simp [roundUnits]
  have hz : isNaN zero32 = false ∧ isInf zero32 = false ∧ signBit zero32 = false ∧
    magBits zero32 = 0 := by decide
  obtain ⟨hnan, hinf, hsign, hmag⟩ := hz
  simp only [div32, hnan, isNaN_of_isFinite hd, hinf, isInf_of_isFinite hd, hzero, hsign,
    signBit_of_val_pos hpos, hmag, unitsOf_zero, zero_mul, hunits]
  decide

theorem blep_zero32 {d : Word} (hd : isFinite d = true) (hpos : 0 < val d) (coeff : BlepCoeff) :
    blep coeff zero32 d = 0xBF800000#32 := by
  have hlt : lt32 zero32 d = true := by
    rw [lt32_iff (by decide) hd, val_zero32]
    exact hpos
  obtain ⟨htwo, hone⟩ := blep_of_lt hlt
  cases coeff with
  | one => rw [hone, div32_zero32 hd hpos]; decide +kernel
  | two => rw [htwo, div32_zero32 hd hpos]; decide +kernel

end Sys2Proof.Machine

namespace Sys2Proof.Proofs
open Machine

-- One kernel evaluation after another: each waits on a thread of its own, and threads take stacks.
set_option Elab.async false

/-- Settles O51: the clamp of R220 keeps the left index in 0 .. 254, and the right one is the rest. -/
theorem panIndicesMirror : Obligations.PanIndicesMirror :=
  ⟨fun pan => ⟨panLeft_le pan, Nat.add_sub_of_le (panLeft_le pan)⟩, by decide +kernel,
    by decide +kernel, by decide +kernel⟩

/-- Settles O52: in both segments the rounded square stays between 2|y| - 1 and |y|. -/
theorem polyBlepSegments : Obligations.PolyBlepSegments := by
  refine ⟨fun t d => ⟨blep_of_lt, fun h c => blep_of_not_lt h c⟩, fun t d ht0 ht1 hd hd0 => ?_,
    fun c d hd hd0 => ?_, by decide +kernel, by decide +kernel, by decide +kernel⟩
  · have ht : FiniteIn t 0 1 :=
      finiteIn_unit_iff.mpr (Bool.and_eq_true_iff.mpr ⟨ht0, le32_of_lt32 ht1⟩)
    have hpos := val_pos_of_gt32 hd hd0
    refine ⟨fun h => ?_, fun h => ?_⟩
    · refine (finiteIn_iff_inRange32 (m := -1) (n := 0) (by decide) (by decide)).mp ?_
      simpa using finiteIn_blep_of_lt ht hd hpos h .two
    · exact finiteIn_unit_iff.mp (finiteIn_blep_of_not_lt ht hd hpos h .two)
  · exact blep_zero32 hd (val_pos_of_gt32 hd hd0) c

/-- Settles O53: each of the three shift steps is injective, and both roundings of a sample keep its
bounds. -/
theorem noiseStepIsInjective : Obligations.NoiseStepIsInjective := by
  refine ⟨fun _ _ h => noiseStep_injective h, noiseStep_zero, fun r => ?_⟩
  refine (finiteIn_iff_inRange32 (m := -1) (n := 1) (by decide) (by decide)).mp ?_
  simpa using finiteIn_noiseSample r

/-- Refutes O54: at t = 0x3C8996C7 and dtn = 0.25 the two additions round apart. -/
theorem not_zeroPulseWidthIsConstant : ¬ Obligations.ZeroPulseWidthIsConstant := by
  intro h
  have hsample := h 0x3C8996C7#32 0x3E800000#32 (by decide) (by decide) (by decide) (by decide)
  exact absurd hsample (by decide +kernel)

end Sys2Proof.Proofs
end

section
/-!
The rendering loops in both nestings (R232), and the BLOCK step (R240 to R248).
-/
namespace Sys2Proof.Machine

/-! ### The two nestings (R232) -/

section
variable (c : Config) (p : Params) (volume : Word)

theorem oscBlock_nil (cells : List Frame) : oscBlock c p volume [] cells = ([], cells) := by
  induction cells with
  | nil => rfl
  | cons cell cells ih => rw [oscBlock, oscFrame, ih]

/-- The first voice may be taken through all frames before the others: no voice reads a cell, and each
cell meets the voices in the same order. -/
theorem oscBlock_cons (v : Voice) (vs : List Voice) (cells : List Frame) :
    oscBlock c p volume (v :: vs) cells =
      ((voiceTrack c p volume v cells).1 ::
          (oscBlock c p volume vs (voiceTrack c p volume v cells).2).1,
        (oscBlock c p volume vs (voiceTrack c p volume v cells).2).2) := by
  induction cells generalizing v vs with
  | nil => rfl
  | cons cell cells ih => rw [oscBlock, oscFrame, ih]; rfl

end

/-! ### The drain -/

theorem drain_completes (ws : List CmdWord) (s : State) : ∃ t, drain ws s = .next t := by
  induction ws generalizing s with
  | nil => exact ⟨s, rfl⟩
  | cons w ws ih =>
    obtain ⟨t, ht⟩ := execWord_completes w s
    rw [drain_cons ws ht]
    exact ih _

theorem execWord_frame {w : CmdWord} {s t : State} (h : execWord w s = .next t) :
    t = { s with sticky := t.sticky, globalVolume := t.globalVolume, oscs := t.oscs } := by
  obtain ⟨i, -, hi⟩ | rfl := execWord_cases h
  · exact exec_frame hi
  · rfl

/-- All that a drain can change. -/
theorem drain_frame {ws : List CmdWord} {s t : State} (h : drain ws s = .next t) :
    t = { s with
      sticky := t.sticky, fifo := t.fifo, globalVolume := t.globalVolume, oscs := t.oscs } :=
  drain_keeps (fun u => u = { s with
      sticky := u.sticky, fifo := u.fifo, globalVolume := u.globalVolume, oscs := u.oscs })
    (fun w ws u v hu hw => by rw [execWord_frame hw, hu]; rfl) ws s t rfl h

/-! ### The sources (R242) -/

/-- All that the sources can change. -/
theorem renderSources_frame (n : Nat) (s : State) : (renderSources n s).1 =
    { s with oscs := (renderSources n s).1.oscs, extIn := (renderSources n s).1.extIn } :=
  renderSources_keeps (fun t => t = { s with oscs := t.oscs, extIn := t.extIn }) n
    (fun r src h => by
      obtain heq | ⟨_, _, -, -, heq⟩ | ⟨_, -, heq⟩ := renderSource_state n r src
      · rwa [heq]
      · rw [heq, h]; rfl
      · rw [heq, h]; rfl) s rfl

/-- What every source of REGISTRY keeps of the state and the accumulator, the sources keep (R242). -/
theorem renderSources_induction {motive : State × List Frame → Prop} {n : Nat} {s : State}
    (h : motive (s, clearAcc n))
    (hstep : ∀ r, ∀ src ∈ s.cfg.registry, motive r → motive (renderSource n r src)) :
    motive (renderSources n s) :=
  List.foldlRecOn _ _ h fun r hr src hsrc => hstep r src hsrc hr

theorem length_extBlock (s : State) (j n f : Nat) (cells : List Frame) :
    (extBlock s j n f cells).length = cells.length := by
  induction cells generalizing f with
  | nil => rfl
  | cons cell cells ih => simp [extBlock, ih]

theorem length_renderSource (n : Nat) (r : State × List Frame) (src : Source) :
    (renderSource n r src).2.length = r.2.length := by
  cases src with
  | osc k =>
    rw [renderSource]
    split
    · rfl
    · exact (oscBlock_length ..).2
  | ext j => exact length_extBlock ..

theorem length_renderSources (n : Nat) (s : State) : (renderSources n s).2.length = n :=
  renderSources_induction (motive := fun r => r.2.length = n) (List.length_replicate ..)
    fun r src _ h => (length_renderSource n r src).trans h

/-- `renderSource` with the configuration and GLOBAL_VOLUME of the drained state read once (R242). -/
def sourceStep (c : Config) (volume : Word) (n : Nat) (r : State × List Frame) :
    Source → State × List Frame
  | .osc k =>
    match r.1.oscs[k]? with
    | some o =>
      let b := oscBlock c o.params volume o.voices r.2
      ({ r.1 with oscs := r.1.oscs.set k { o with voices := b.1 } }, b.2)
    | none => r
  | .ext j => ({ r.1 with extIn := r.1.extIn.modify j (List.drop n) }, extBlock r.1 j n 0 r.2)

theorem renderSource_eq_sourceStep (n : Nat) (r : State × List Frame) (src : Source) :
    renderSource n r src = sourceStep r.1.cfg r.1.globalVolume n r src := by
  cases src with
  | osc k =>
    rw [renderSource, sourceStep]
    cases ho : r.1.oscs[k]? with
    | none => rfl
    | some o =>
      have hset : ∀ f : Osc → Osc, r.1.oscs.modify k f = r.1.oscs.set k (f o) := fun f => by
        rw [List.modify_eq_set_getElem?, ho]
        rfl
      simp only [modifyOsc, hset]
  | ext j => rfl

/-- No source changes the configuration or GLOBAL_VOLUME, so all read those of the drained state. -/
theorem renderSources_eq_foldl_sourceStep (n : Nat) (s : State) : renderSources n s =
    s.cfg.registry.foldl (sourceStep s.cfg s.globalVolume n) (s, clearAcc n) := by
  refine (List.foldl_rel (r := fun x y => x = y ∧ SameRegistersAndNotes s x.1) ⟨rfl, .refl s⟩
    fun src _ x y hxy => ?_).1
  obtain ⟨rfl, hsame⟩ := hxy
  refine ⟨?_, hsame.renderSource n x src⟩
  rw [renderSource_eq_sourceStep, hsame.cfg, hsame.globalVolume]

/-! ### Silence (R242, R243) -/

theorem voiceFrame_idle (c : Config) (p : Params) (volume : Word) {v : Voice} (cell : Frame)
    (h : v.stage = .idle) :
    (voiceFrame c p volume v cell).1.stage = .idle ∧ (voiceFrame c p volume v cell).2 = cell := by
  have htick : (tick p (dt32 c) v).stage = .idle := by rw [tick_of_idle p _ h]; exact h
  rw [voiceFrame_of_idle volume cell htick]
  exact ⟨htick, rfl⟩

section
variable (c : Config) (p : Params) (volume : Word) {vs : List Voice} (h : ∀ v ∈ vs, v.stage = .idle)
include h

theorem oscFrame_idle (cell : Frame) : (oscFrame c p volume vs cell).2 = cell := by
  induction vs generalizing cell with
  | nil => rfl
  | cons v vs ih =>
    obtain ⟨hv, hvs⟩ := List.forall_mem_cons.mp h
    rw [oscFrame, (voiceFrame_idle c p volume cell hv).2]
    exact ih hvs cell

/-- An instance with only idle voices adds nothing, and stays so. -/
theorem oscBlock_idle (cells : List Frame) :
    (∀ v ∈ (oscBlock c p volume vs cells).1, v.stage = .idle) ∧
      (oscBlock c p volume vs cells).2 = cells := by
  have hkeeps := fun (v : Voice) cell (hv : v.stage = .idle) =>
    (voiceFrame_idle c p volume cell hv).1
  refine ⟨oscBlock_keeps _ c p volume hkeeps vs cells h, ?_⟩
  induction cells generalizing vs with
  | nil => rfl
  | cons cell cells ih =>
    rw [oscBlock, ih (oscFrame_keeps _ c p volume hkeeps vs cell h), oscFrame_idle c p volume h]

end

theorem renderSource_idle (n k : Nat) {r : State × List Frame}
    (h : AllVoices (fun v => v.stage = .idle) r.1) :
    AllVoices (fun v => v.stage = .idle) (renderSource n r (.osc k)).1 ∧
      (renderSource n r (.osc k)).2 = r.2 := by
  rw [renderSource]
  split
  · exact ⟨h, rfl⟩
  · next o ho =>
    obtain ⟨hvoices, hcells⟩ := oscBlock_idle r.1.cfg o.params r.1.globalVolume
      (h o (List.mem_of_getElem? ho)) r.2
    exact ⟨forall_oscs_modifyOsc (fun _ _ _ => hvoices) h, hcells⟩

/-- With no external source and no voice sounding, the sources leave the cleared cells. -/
theorem renderSources_idle (n : Nat) {s : State} (hext : ∀ j, .ext j ∉ s.cfg.registry)
    (h : AllVoices (fun v => v.stage = .idle) s) : (renderSources n s).2 = clearAcc n := by
  refine (renderSources_induction (motive := fun r =>
    AllVoices (fun v => v.stage = .idle) r.1 ∧ r.2 = clearAcc n) ⟨h, rfl⟩ fun r src hsrc hr => ?_).2
  cases src with
  | osc k =>
    obtain ⟨hidle, hcells⟩ := renderSource_idle n k hr.1
    exact ⟨hidle, hcells.trans hr.2⟩
  | ext j => exact absurd hsrc (hext j)

/-! ### What a BLOCK leaves after its drain (R241 to R247) -/

theorem renderBlock_frame (n : Word) (s : State) : renderBlock n s = { s with
    oscs := (renderSources n.toNat s).1.oscs
    extIn := (renderSources n.toNat s).1.extIn
    obs := s.obs ++ [.frames (renderSources n.toNat s).2]
    blockTime := add32 s.blockTime (div32 (i2f32 n.toNat) (sr32 s.cfg))
    frameCount := s.frameCount + n.zeroExtend 64
    extSerial := s.extSerial + 1 } := by
  unfold renderBlock
  dsimp only
  rw [renderSources_frame]
  rfl

theorem toNat_frameCount_add (count : BitVec 64) (n : Word) :
    (count + n.zeroExtend 64).toNat = (count.toNat + n.toNat) % 2 ^ 64 := by
  rw [BitVec.toNat_add, BitVec.toNat_setWidth, Nat.mod_eq_of_lt (n.isLt.trans (by norm_num))]

end Sys2Proof.Machine

namespace Sys2Proof.Proofs
open Machine

/-- Settles O34, voice by voice: the first can be taken through all frames before the others. -/
theorem loopNestingGivesSameBits : Obligations.LoopNestingGivesSameBits := by
  intro c p volume vs cells
  induction vs generalizing cells with
  | nil => exact oscBlock_nil ..
  | cons v vs ih => rw [oscBlock_cons, ih]; rfl

/-- Settles O27: the drain completes, and the sources then render from the cleared accumulator. -/
theorem blockCompletes : Obligations.BlockCompletes := by
  intro s n ops hwf hsink hn
  obtain ⟨u, hu⟩ := drain_completes s.fifo { s with pending := ops }
  have hstep : step { s with pending := .block n :: ops } = .next (renderBlock n u) := by
    rw [step_block hwf hsink hn, blockStep, hu]
  have hframe := drain_frame hu
  have hcfg : u.cfg = s.cfg := (congrArg State.cfg hframe).trans rfl
  have hfold := renderSources_eq_foldl_sourceStep n.toNat u
  rw [hcfg] at hfold
  refine ⟨renderBlock n u, u, (renderSources n.toNat u).2, hu, hstep, ⟨?_, ?_, ?_⟩, fun hext hidle =>
    renderSources_idle _ (hcfg ▸ hext) hidle, ?_⟩
  · exact congrArg Prod.snd hfold
  · exact congrArg (fun r => r.1.oscs) hfold
  · exact congrArg (fun r => r.1.extIn) hfold
  · have hfifo : u.fifo = [] := drain_fifo hu rfl
    rw [renderBlock_frame, hframe]
    exact ⟨hfifo, length_renderSources _ _, rfl, rfl, toNat_frameCount_add _ _, rfl, rfl⟩

end Sys2Proof.Proofs
end

section
/-!
The sound of a voice with legal registers is finite (R201, R203, R233).
-/
namespace Sys2Proof.Machine

/-! ### Constants -/

theorem finiteIn_two : FiniteIn 0x40000000#32 2 2 := by
  simpa using finiteIn_of_exactUnits (z := 2) (by decide)

theorem finiteIn_three : FiniteIn 0x40400000#32 3 3 := by
  simpa using finiteIn_of_exactUnits (z := 3) (by decide)

theorem finiteIn_four : FiniteIn 0x40800000#32 4 4 := by
  simpa using finiteIn_of_exactUnits (z := 4) (by decide)

theorem finiteIn_twelve : FiniteIn 0x41400000#32 12 12 := by
  simpa using finiteIn_of_exactUnits (z := 12) (by decide)

theorem finiteIn_sixtyNine : FiniteIn 0x428A0000#32 69 69 := by
  simpa using finiteIn_of_exactUnits (z := 69) (by decide)

theorem finiteIn_concertPitch : FiniteIn 0x43DC0000#32 440 440 := by
  simpa using finiteIn_of_exactUnits (z := 440) (by decide)

theorem finiteIn_twoPi : FiniteIn 0x40C90FDB#32 0 7 := by
  simpa using (finiteIn_iff_inRange32 (m := 0) (n := 7) (lo := zero32) (hi := 0x40E00000#32)
    (by decide) (by decide)).mpr (by decide : inRange32 _ _ 0x40C90FDB#32 = true)

/-! ### What the default library leaves undecided (R9) -/

theorem roundSigned_roundsTo (v : Int) {den : Nat} (hden : 0 < den) :
    RoundsTo ((v : ℝ) / den / 2 ^ 149) (roundSigned v den) := by
  have h := (roundsMag_roundUnits v.natAbs hden).roundsTo (by positivity) (decide (v < 0))
  rwa [← signed_div_right, ← intCast_eq_signed] at h

theorem finiteIn_between {a b free : Word} {lo hi : ℝ} (ha : FiniteIn a lo hi)
    (hb : FiniteIn b lo hi) : FiniteIn (between a b free) lo hi := by
  obtain heq | ⟨heq, hlow, hhigh⟩ := between_cases a b free <;> rw [heq]
  · exact ha
  · obtain ⟨hafin, halo, -⟩ := ha
    obtain ⟨hbfin, -, hbhi⟩ := hb
    have hfin : isFinite free = true := isFinite_iff_orderKey.mpr
      ⟨(isFinite_iff_orderKey.mp hafin).1.trans_le hlow,
        hhigh.trans_lt (isFinite_iff_orderKey.mp hbfin).2⟩
    have hlow' : (val a : ℝ) ≤ val free := by exact_mod_cast orderKey_le_iff.mp hlow
    have hhigh' : (val free : ℝ) ≤ val b := by exact_mod_cast orderKey_le_iff.mp hhigh
    exact ⟨hfin, halo.trans hlow', hhigh'.trans hbhi⟩

/-- A free value between two roundings keeps bounds that hold within twice the error (log entry 6). -/
theorem finiteIn_undecided {v : Int} {den : Nat} {free : Word} {z lo hi : ℝ} (hden : 0 < den)
    (hz : |z - v| ≤ fixError) (hlow : lo * (den * 2 ^ 149) ≤ z - 2 ^ 17)
    (hhigh : z + 2 ^ 17 ≤ hi * (den * 2 ^ 149)) (hlo : IsBinary32 lo := by simp)
    (hhi : IsBinary32 hi := by simp) : FiniteIn (undecided v den free) lo hi := by
  have hscale : (0 : ℝ) < den * 2 ^ 149 := by positivity
  have herr : (fixError : ℝ) = 2 ^ 16 := by rw [fixError]; norm_num
  have hend : ∀ u : Int, |z - u| ≤ 2 ^ 17 → FiniteIn (roundSigned u den) lo hi := by
    intro u hu
    obtain ⟨hu1, hu2⟩ := abs_le.mp hu
    have hround := roundSigned_roundsTo u hden
    rw [div_div] at hround
    refine finiteIn_of_roundsTo hround ?_ ?_ hlo hhi
    · rw [le_div_iff₀ hscale]; linarith
    · rw [div_le_iff₀ hscale]; linarith
  rw [herr] at hz
  obtain ⟨hz1, hz2⟩ := abs_le.mp hz
  refine finiteIn_between (hend _ ?_) (hend _ ?_) <;> push_cast <;> rw [herr, abs_le] <;>
    constructor <;> linarith

theorem exp2Whole_bounds {a : Word} (hlow : -2 ^ 5 ≤ (val a : ℝ)) (hhigh : (val a : ℝ) ≤ 2 ^ 5) :
    -32 ≤ exp2Whole a ∧ exp2Whole a ≤ 32 := by
  rw [show exp2Whole a = ⌊val a⌋ from (floor_val a).symm, Int.le_floor, Int.floor_le_iff]
  have hlow' : -2 ^ 5 ≤ val a := by exact_mod_cast hlow
  have hhigh' : val a ≤ 2 ^ 5 := by exact_mod_cast hhigh
  constructor <;> push_cast <;> linarith

theorem exp2Den_eq {a : Word} (h : exp2Whole a ≤ 171) :
    (exp2Den a : ℝ) = 2 ^ 171 / 2 ^ exp2Whole a := by
  rw [exp2Den, Nat.cast_pow, Nat.cast_ofNat, ← zpow_natCast, Int.toNat_of_nonneg (by omega),
    zpow_sub₀ two_ne_zero, zpow_ofNat]

/-- What is left of an undecided 2^a for a in [-32, 32]: 2^(a - floor(a)) is in [1, 2]. -/
theorem finiteIn_exp2_undecided {a : Word} (hlow : -32 ≤ exp2Whole a) (hhigh : exp2Whole a ≤ 32)
    (free : Word) :
    FiniteIn (undecided (exp2Scaled a) (exp2Den a) free) ((2 ^ 34)⁻¹) (2 ^ 34) := by
  have hpart0 : (0 : ℝ) ≤ exp2Part a / 2 ^ 149 := by positivity
  have hpart1 : (exp2Part a : ℝ) / 2 ^ 149 ≤ 1 := by
    rw [div_le_one (by positivity)]; exact_mod_cast (exp2Part_lt a).le
  have hfrac1 : (1 : ℝ) ≤ 2 ^ ((exp2Part a : ℝ) / 2 ^ 149) := Real.one_le_rpow one_le_two hpart0
  have hfrac2 : (2 : ℝ) ^ ((exp2Part a : ℝ) / 2 ^ 149) ≤ 2 :=
    (Real.rpow_le_rpow_of_exponent_le one_le_two hpart1).trans (Real.rpow_one 2).le
  have hwhole1 : (2 ^ 32)⁻¹ ≤ (2 : ℝ) ^ exp2Whole a := by
    have h := zpow_le_zpow_right₀ (one_le_two (α := ℝ)) hlow
    rwa [zpow_neg, zpow_ofNat] at h
  have hwhole2 : (2 : ℝ) ^ exp2Whole a ≤ 2 ^ 32 := by
    have h := zpow_le_zpow_right₀ (one_le_two (α := ℝ)) hhigh
    rwa [zpow_ofNat] at h
  have hscale : (exp2Den a : ℝ) * 2 ^ 149 = 2 ^ fixBits / 2 ^ exp2Whole a := by
    rw [exp2Den_eq (by omega), two_pow_fixBits]; ring
  have hpos : (0 : ℝ) < 2 ^ exp2Whole a := by positivity
  have herr : (2 : ℝ) ^ 17 ≤ 2 ^ fixBits / 2 := by rw [two_pow_fixBits]; norm_num
  have hB : (0 : ℝ) < 2 ^ fixBits := by positivity
  refine finiteIn_undecided (by unfold exp2Den; positivity) (abs_exp2Scaled_sub_le a) ?_ ?_ <;>
    rw [hscale, ← mul_div_assoc]
  · have hend : (2 : ℝ) ^ fixBits / 2 ≤ 2 ^ fixBits * 2 ^ ((exp2Part a : ℝ) / 2 ^ 149) - 2 ^ 17 := by
      nlinarith
    rw [div_le_iff₀ hpos]
    linarith [mul_le_mul hend hwhole1 (by positivity) (by linarith)]
  · have hend : 2 ^ fixBits * 2 ^ ((exp2Part a : ℝ) / 2 ^ 149) + 2 ^ 17 ≤ (2 : ℝ) ^ fixBits * 3 := by
      nlinarith
    rw [le_div_iff₀ hpos]
    linarith [mul_le_mul hend hwhole2 hpos.le (by positivity)]

/-- 2^a, decided or not, for a in [-32, 32]. -/
theorem finiteIn_exp2 {a : Word} (ha : FiniteIn a (-2 ^ 5) (2 ^ 5)) :
    FiniteIn (exp2 .correctlyRounded a) ((2 ^ 34)⁻¹) (2 ^ 34) := by
  obtain ⟨hfin, hlow, hhigh⟩ := ha
  cases hdec : exp2Rounded a with
  | some w =>
    obtain ⟨heq, hround⟩ := Proofs.defaultExp2RoundsCorrectly a w hfin hdec
    rw [heq]
    refine finiteIn_of_roundsTo hround ?_ ?_
    · rw [← Real.rpow_natCast, ← Real.rpow_neg two_pos.le]
      exact Real.rpow_le_rpow_of_exponent_le one_le_two (by push_cast; linarith)
    · rw [← Real.rpow_natCast]
      exact Real.rpow_le_rpow_of_exponent_le one_le_two (by push_cast; linarith)
  | none =>
    have heq : exp2 .correctlyRounded a =
        undecided (exp2Scaled a) (exp2Den a) (Config.exp2 a) := by
      simp [exp2, isNaN_of_isFinite hfin, isInf_of_isFinite hfin, hdec]
    obtain ⟨hwhole1, hwhole2⟩ := exp2Whole_bounds hlow hhigh
    rw [heq]
    exact finiteIn_exp2_undecided hwhole1 hwhole2 _

/-- sin(a), decided or not. -/
theorem finiteIn_sin32 {a : Word} (ha : isFinite a = true) :
    FiniteIn (sin32 .correctlyRounded a) (-2) 2 := by
  by_cases hz : isZero a = true
  · have hsin : sin32 .correctlyRounded a = zero32 := by
      simp [sin32, isNaN_of_isFinite ha, isInf_of_isFinite ha, hz]
    rw [hsin]
    exact ⟨by decide, by simp [val_zero32]⟩
  · rw [Bool.not_eq_true] at hz
    cases hdec : sinRounded a with
    | some w =>
      obtain ⟨heq, hround⟩ := Proofs.defaultSineRoundsCorrectly a w ha hz hdec
      rw [heq]
      exact finiteIn_of_roundsTo hround (by linarith [Real.neg_one_le_sin (val a)])
        (by linarith [Real.sin_le_one (val a)])
    | none =>
      have heq : sin32 .correctlyRounded a =
          undecided (sinScaled a) (2 ^ 171) (Config.sin32 a) := by
        simp [sin32, isNaN_of_isFinite ha, isInf_of_isFinite ha, hz, hdec]
      have h1 := Real.neg_one_le_sin (val a)
      have h2 := Real.sin_le_one (val a)
      rw [heq]
      refine finiteIn_undecided (by positivity) (abs_sinScaled_sub_le ha) ?_ ?_
      · rw [two_pow_fixBits]; push_cast; linarith
      · rw [two_pow_fixBits]; push_cast; linarith

/-! ### Frequency, cycles and the sample period (R200, R201, R203) -/

theorem finiteIn_sr32 {c : Config} (hwf : configWellFormed c = true) :
    FiniteIn (sr32 c) 1 (2 ^ 24) := by
  obtain ⟨hlow, hhigh⟩ := sampleRate_bounds_of_wellFormed hwf
  exact finiteIn_of_roundsTo (i2f32_roundsTo _) (by exact_mod_cast hlow)
    (by exact_mod_cast hhigh.trans (by norm_num))

section
variable {v : Voice} (hv : SoundInRange v)
include hv

theorem finiteIn_note : FiniteIn v.actualNote (-129) 384 := by
  obtain ⟨hnote, -⟩ := hv
  simpa using (finiteIn_iff_inRange32 (m := -129) (n := 384) (by decide) (by decide)).mpr hnote

theorem finiteIn_phase : FiniteIn v.phase 0 (2 ^ 24) := by
  obtain ⟨-, -, hphase⟩ := hv
  exact ((finiteIn_iff_inRange32 (m := 0) (n := 16777216) (by decide) (by decide)).mpr hphase).mono
    (by norm_num) (by norm_num)

/-- The note's distance to 69 is at most 32 octaves, so the frequency stays within powers of 2. -/
theorem finiteIn_frequency :
    FiniteIn (frequency .correctlyRounded v.actualNote) ((2 ^ 34)⁻¹) (2 ^ 43) := by
  have hbound : IsBinary32 384 := by simpa using isBinary32_int (m := 384) (by norm_num)
  have hsemitones : FiniteIn (sub32 v.actualNote 0x428A0000#32) (-384) 384 :=
    (finiteIn_note hv).sub32 finiteIn_sixtyNine (by norm_num) (by norm_num) hbound.neg hbound
  have hoctaves := hsemitones.div32_abs finiteIn_twelve (c := 2 ^ 5) (by norm_num) (by norm_num)
  exact finiteIn_concertPitch.mul32 (finiteIn_exp2 hoctaves) (by norm_num) (by positivity)
    (by norm_num) (by norm_num)

theorem finiteIn_cycles : FiniteIn (cyclesOf .correctlyRounded v) 0 (2 ^ 67) :=
  (finiteIn_frequency hv).mul32 (finiteIn_phase hv) (by positivity) le_rfl (by norm_num)
    (by norm_num)

theorem finiteIn_dtn {c : Config} (hwf : configWellFormed c = true)
    (hlib : c.mathLib = .correctlyRounded) : FiniteIn (dtnOf c v) ((2 ^ 58)⁻¹) (2 ^ 43) := by
  rw [dtnOf, hlib]
  exact (finiteIn_frequency hv).div32 (finiteIn_sr32 hwf) (by positivity) one_pos (by norm_num)
    (by norm_num)

end

/-! ### Samples (R210 to R215) -/

theorem finiteIn_frac32 {x : Word} (hx : isFinite x = true) : FiniteIn (frac32 x) 0 1 := by
  obtain ⟨hfin, hlow, hhigh⟩ := frac32_mem_unit hx
  exact ⟨hfin, by exact_mod_cast hlow, by exact_mod_cast hhigh⟩

section
variable {t d : Word} (ht : FiniteIn t 0 1)
include ht

theorem finiteIn_triangleSample : FiniteIn (triangleSample t) (-1) 1 := by
  obtain ⟨hfin, ht0, ht1⟩ := ht
  have hhalf : lt32 t 0x3F000000#32 = true ↔ (val t : ℝ) < 1 / 2 := by
    rw [lt32_iff hfin (by decide), val_half]
    norm_num [← Rat.cast_lt (K := ℝ)]
  unfold triangleSample
  split
  · next h =>
    have hlow : FiniteIn t 0 (1 / 2) := ⟨hfin, ht0, (hhalf.mp h).le⟩
    have hrise : FiniteIn (mul32 0x40800000#32 t) 0 2 :=
      finiteIn_four.mul32 hlow (by norm_num) le_rfl (by norm_num) (by norm_num)
    exact hrise.sub32 finiteIn_one32 (by norm_num) (by norm_num)
  · next h =>
    have hhigh : FiniteIn t (1 / 2) 1 := ⟨hfin, not_lt.mp (mt hhalf.mpr h), ht1⟩
    have hrise : FiniteIn (mul32 0x40800000#32 t) 2 (2 ^ 2) :=
      finiteIn_four.mul32 hhigh (by norm_num) (by norm_num) (by norm_num) (by norm_num)
    exact finiteIn_three.sub32 hrise (by norm_num) (by norm_num)

variable (hd : isFinite d = true) (hpos : 0 < val d) (coeff : BlepCoeff)
include hd hpos

theorem finiteIn_sawtoothSample : FiniteIn (sawtoothSample coeff t d) (-2) 2 := by
  have hdouble : FiniteIn (mul32 0x40000000#32 t) 0 2 :=
    finiteIn_two.mul32 ht (by norm_num) le_rfl (by norm_num) (by norm_num)
  have hramp : FiniteIn (sub32 (mul32 0x40000000#32 t) one32) (-1) 1 :=
    hdouble.sub32 finiteIn_one32 (by norm_num) (by norm_num)
  exact hramp.sub32 (finiteIn_blep ht hd hpos coeff) (by norm_num) (by norm_num)

theorem finiteIn_squareSample {pw : Word} (hpw : FiniteIn pw 0 1) :
    FiniteIn (squareSample coeff pw t d) (-3) 3 := by
  have hnaive : FiniteIn (if lt32 t pw then one32 else 0xBF800000#32) (-1) 1 := by
    split
    · exact finiteIn_one32.mono (by norm_num) le_rfl
    · have h := finiteIn_of_exactUnits (z := -1) (a := 0xBF800000#32) (by decide)
      exact h.mono (by norm_num) (by norm_num)
  have hshifted : FiniteIn (sub32 t pw) (-1) 1 := ht.sub32 hpw (by norm_num) (by norm_num)
  have hfirst : FiniteIn
      (add32 (if lt32 t pw then one32 else 0xBF800000#32) (blep coeff t d)) (-2) 2 :=
    hnaive.add32 (finiteIn_blep ht hd hpos coeff) (by norm_num) (by norm_num)
  exact hfirst.sub32 (finiteIn_blep (finiteIn_frac32 hshifted.1) hd hpos coeff) (by norm_num)
    (by norm_num)

end

/-- A sample is within 3: the square adds two corrections to its 1. -/
theorem finiteIn_sampleOf {c : Config} {p : Params} {v : Voice} (hwf : configWellFormed c = true)
    (hlib : c.mathLib = .correctlyRounded) (hp : paramsLegal p = true) (hv : SoundInRange v) :
    FiniteIn (sampleOf c p v).1 (-3) 3 := by
  have hcycles := finiteIn_cycles hv
  rw [← hlib] at hcycles
  have ht := finiteIn_frac32 hcycles.1
  have hdtn := finiteIn_dtn hv hwf hlib
  have hpos : 0 < val (dtnOf c v) := by
    have h : (0 : ℝ) < val (dtnOf c v) := lt_of_lt_of_le (by positivity) hdtn.2.1
    exact_mod_cast h
  unfold sampleOf
  cases p.waveform with
  | sine =>
    have hangle := finiteIn_twoPi.mul32 hcycles (lo := 0) (hi := 2 ^ 70) le_rfl le_rfl (by norm_num)
      (by norm_num)
    dsimp only [sineSample]
    rw [hlib] at hangle ⊢
    exact (finiteIn_sin32 hangle.1).mono (by norm_num) (by norm_num)
  | square =>
    exact finiteIn_squareSample ht hdtn.1 hpos c.blepAfter
      (finiteIn_unit_iff.mpr (paramsLegal_iff.mp hp .pulseWidth))
  | triangle => exact (finiteIn_triangleSample ht).mono (by norm_num) (by norm_num)
  | sawtooth =>
    exact (finiteIn_sawtoothSample ht hdtn.1 hpos c.blepAfter).mono (by norm_num) (by norm_num)
  | noise => exact (finiteIn_noiseSample _).mono (by norm_num) (by norm_num)

/-! ### Gains and contributions (R219, R221, R222) -/

/-- The largest velocity is 255/127 rounded (R132); its square is at most 517/128. -/
theorem finiteIn_velocity {v : Voice} (hv : SoundInRange v) :
    FiniteIn v.velocity 0 (val 0x40008102#32) ∧
      (val 0x40008102#32 : ℝ) * val 0x40008102#32 ≤ 517 / 2 ^ 7 := by
  obtain ⟨-, hvelocity, -⟩ := hv
  obtain ⟨hfin, hlow, hhigh⟩ := (inRange32_iff (by decide) (by decide)).mp hvelocity
  rw [val_zero32] at hlow
  have hunits : exactUnits 0x40008102#32 = 8421634 * 2 ^ 127 := by decide
  refine ⟨⟨hfin, by exact_mod_cast hlow, by exact_mod_cast hhigh⟩, ?_⟩
  rw [val, hunits]
  norm_num

theorem finiteIn_voiceGain {volume : Word} {v : Voice} (hvolume : legalVolume volume = true)
    (he : inRange32 zero32 one32 v.volume = true) (hv : SoundInRange v) :
    FiniteIn (voiceGain volume v) 0 (517 * 2 ^ 9) := by
  obtain ⟨hvelocity, hsquare⟩ := finiteIn_velocity hv
  have henvelope : FiniteIn v.volume 0 1 := finiteIn_unit_iff.mpr he
  have hmaster : FiniteIn volume 0 65536 := by
    simpa using (finiteIn_iff_inRange32 (m := 0) (n := 65536) (by decide) (by decide)).mpr hvolume
  have hfull : IsBinary32 (517 / 2 ^ 7) := by
    have h := isBinary32_mul_zpow (m := 517) (e := -7) (by norm_num) (by norm_num) (by norm_num)
    norm_num at h ⊢
    exact h
  have htop : IsBinary32 (517 * 2 ^ 9) := by
    have h := isBinary32_int (m := 517 * 2 ^ 9) (by norm_num)
    exact_mod_cast h
  have hamp := hvelocity.mul32 henvelope (lo := 0) le_rfl le_rfl (by norm_num) (mul_one _).le
    (hhi := isBinary32_val (by decide))
  have hpower := hamp.mul32 hamp (lo := 0) le_rfl le_rfl (by norm_num) hsquare (hhi := hfull)
  exact hpower.mul32 hmaster le_rfl le_rfl (by norm_num) (by norm_num) (hhi := htop)

theorem panTable_inUnit_of_wellFormed {c : Config} (hwf : configWellFormed c = true) {w : Word}
    (hw : w ∈ c.panTable) : FiniteIn w 0 1 := by
  simp only [configWellFormed, valuesWellFormed, Bool.and_eq_true, List.all_eq_true] at hwf
  obtain ⟨-, -, -, -, hpan, -⟩ := hwf
  exact finiteIn_unit_iff.mpr (hpan w hw)

theorem finiteIn_panGain {c : Config} (hwf : configWellFormed c = true) (i : Nat) :
    FiniteIn (panGain c i) 0 1 := by
  rw [panGain, List.getD_eq_getElem?_getD]
  cases h : c.panTable[i]? with
  | none => exact finiteIn_unit_iff.mpr inUnit_zero32
  | some w => exact panTable_inUnit_of_wellFormed hwf (List.mem_of_getElem? h)

/-- A sample with its gain and one pan gain is within 2^20. -/
theorem finiteIn_contribution {s g w : Word} (hs : FiniteIn s (-3) 3)
    (hg : FiniteIn g 0 (517 * 2 ^ 9)) (hw : FiniteIn w 0 1) : FiniteIn (mul32 (mul32 s g) w) (-2 ^ 20) (2 ^ 20) := by
  have hg' : FiniteIn g (-(517 * 2 ^ 9)) (517 * 2 ^ 9) := hg.mono (by norm_num) le_rfl
  have hw' : FiniteIn w (-1) 1 := hw.mono (by norm_num) le_rfl
  have hsound : FiniteIn (mul32 s g) (-2 ^ 20) (2 ^ 20) := hs.mul32_abs hg' (by norm_num)
  exact hsound.mul32_abs hw' (by norm_num)

/-! ### The total in a cell (R222, R233) -/

/-- A cell after at most m contributions, each within 2^20: m * 2^20 is a binary32 value for m up to
2^24, so no rounding passes it. -/
def CellWithin (m : Nat) (cell : Frame) : Prop :=
  FiniteIn cell.left (-(m * 2 ^ 20)) (m * 2 ^ 20) ∧ FiniteIn cell.right (-(m * 2 ^ 20)) (m * 2 ^ 20)

theorem CellWithin.mono {m n : Nat} {cell : Frame} (h : CellWithin m cell) (hmn : m ≤ n) :
    CellWithin n cell := by
  have hle : (m : ℝ) * 2 ^ 20 ≤ n * 2 ^ 20 := by gcongr
  exact ⟨h.1.mono (neg_le_neg hle) hle, h.2.mono (neg_le_neg hle) hle⟩

theorem cellWithin_zero : CellWithin 0 ⟨zero32, zero32⟩ := by
  have h : FiniteIn zero32 (-((0 : Nat) * 2 ^ 20)) ((0 : Nat) * 2 ^ 20) :=
    ⟨by decide, by simp [val_zero32]⟩
  exact ⟨h, h⟩

theorem CellWithin.addFrame {m : Nat} {cell : Frame} {l r : Word} (h : CellWithin m cell)
    (hm : m + 1 ≤ 2 ^ 24) (hl : FiniteIn l (-2 ^ 20) (2 ^ 20)) (hr : FiniteIn r (-2 ^ 20) (2 ^ 20)) :
    CellWithin (m + 1) (addFrame cell l r) := by
  have hbin : IsBinary32 ((m + 1 : Nat) * 2 ^ 20) := by
    simpa using isBinary32_mul_zpow (m := (m + 1 : Nat)) (e := 20) (by omega) (by norm_num)
      (by norm_num)
  have hadd : ∀ {a x : Word}, FiniteIn a (-(m * 2 ^ 20)) (m * 2 ^ 20) →
      FiniteIn x (-2 ^ 20) (2 ^ 20) →
      FiniteIn (add32 a x) (-((m + 1 : Nat) * 2 ^ 20)) ((m + 1 : Nat) * 2 ^ 20) := fun ha hx =>
    ha.add32 hx (by push_cast; linarith) (by push_cast; linarith) hbin.neg hbin
  exact ⟨hadd h.1 hl, hadd h.2 hr⟩

/-! ### The total of an instance (R231, R232) -/

theorem LegalVoiceKept.and {P Q : Voice → Prop} (hP : LegalVoiceKept P) (hQ : LegalVoiceKept Q) :
    LegalVoiceKept fun v => P v ∧ Q v where
  place key vel _ _ hp hi hv := ⟨hP.place key vel hp hi hv.1, hQ.place key vel hp hi hv.2⟩
  release b key _ hv := ⟨hP.release b key hv.1, hQ.release b key hv.2⟩
  frame volume _ cell hwf hp hv :=
    ⟨hP.frame volume cell hwf hp hv.1, hQ.frame volume cell hwf hp hv.2⟩
  reset hseed := ⟨hP.reset hseed, hQ.reset hseed⟩

/-- A voice whose sound is bounded (R233). -/
def SoundBounded (v : Voice) : Prop := EnvelopeInRange v ∧ SoundInRange v

theorem soundBounded_kept : LegalVoiceKept SoundBounded :=
  envelopeInRange_kept.and soundInRange_kept

section
variable {c : Config} {p : Params} {volume : Word} (hwf : configWellFormed c = true)
  (hlib : c.mathLib = .correctlyRounded) (hp : paramsLegal p = true)
  (hvolume : legalVolume volume = true) {m : Nat}
include hwf hlib hp hvolume

theorem cellWithin_voiceFrame {v : Voice} {cell : Frame} (hv : SoundBounded v)
    (h : CellWithin m cell) (hm : m + 1 ≤ 2 ^ 24) :
    CellWithin (m + 1) (voiceFrame c p volume v cell).2 := by
  obtain ⟨henvelope, hsound⟩ := hv
  by_cases hidle : (tick p (dt32 c) v).stage = .idle
  · rw [voiceFrame_of_idle volume cell hidle]
    exact h.mono m.le_succ
  · have hs := finiteIn_sampleOf hwf hlib hp hsound
    have hg := finiteIn_voiceGain (v := { v with volume := (tick p (dt32 c) v).volume }) hvolume
      (envelopeInRange_tick hp (dt32_inUnit hwf) henvelope).1 hsound
    rw [voiceFrame_of_active volume cell hidle]
    exact h.addFrame hm (finiteIn_contribution hs hg (finiteIn_panGain hwf _))
      (finiteIn_contribution hs hg (finiteIn_panGain hwf _))

theorem cellWithin_oscFrame {vs : List Voice} {cell : Frame} (hvs : ∀ v ∈ vs, SoundBounded v)
    (h : CellWithin m cell) (hm : m + vs.length ≤ 2 ^ 24) :
    CellWithin (m + vs.length) (oscFrame c p volume vs cell).2 := by
  induction vs generalizing m cell with
  | nil => exact h
  | cons v vs ih =>
    obtain ⟨hv, hvs⟩ := List.forall_mem_cons.mp hvs
    rw [List.length_cons] at hm ⊢
    have hcell := cellWithin_voiceFrame hwf hlib hp hvolume hv h (by omega)
    exact (ih hvs hcell (by omega)).mono (by omega)

theorem cellWithin_oscBlock {vs : List Voice} {cells : List Frame} (hvs : ∀ v ∈ vs, SoundBounded v)
    (h : ∀ cell ∈ cells, CellWithin m cell) (hm : m + vs.length ≤ 2 ^ 24) :
    ∀ cell ∈ (oscBlock c p volume vs cells).2, CellWithin (m + vs.length) cell := by
  induction cells generalizing vs with
  | nil => simp [oscBlock]
  | cons cell cells ih =>
    obtain ⟨hcell, hcells⟩ := List.forall_mem_cons.mp h
    have hlength := oscFrame_length c p volume vs cell
    have hkept := oscFrame_keeps SoundBounded c p volume
      (fun _ cell hv => soundBounded_kept.frame volume cell hwf hp hv) vs cell hvs
    have hrest := ih hkept hcells (by omega)
    rw [hlength] at hrest
    exact List.forall_mem_cons.mpr ⟨cellWithin_oscFrame hwf hlib hp hvolume hvs hcell hm, hrest⟩

end

/-! ### The total of the sources (R242) -/

/-- What the bound on a cell rests on in the state, before and after each source. -/
structure SourcesBounded (s : State) : Prop where
  sound : LegalVoices SoundBounded s
  sized : PoolsSized s
  library : s.cfg.mathLib = .correctlyRounded

theorem renderSource_cfg (n : Nat) (r : State × List Frame) (src : Source) :
    (renderSource n r src).1.cfg = r.1.cfg :=
  (SameRegistersAndNotes.renderSource n r src (.refl r.1)).cfg

theorem SourcesBounded.renderSource {n : Nat} {r : State × List Frame} (src : Source)
    (h : SourcesBounded r.1) : SourcesBounded (renderSource n r src).1 :=
  ⟨soundBounded_kept.kept.renderSource src h.sound, poolsSized_kept.renderSource src h.sized,
    (renderSource_cfg n r src).symm ▸ h.library⟩

/-- One instance adds at most 65535 contributions to a cell (R4). -/
theorem cellWithin_renderSource {n k m : Nat} {r : State × List Frame} (hr : SourcesBounded r.1)
    (h : ∀ cell ∈ r.2, CellWithin m cell) (hm : m + 65535 ≤ 2 ^ 24) :
    ∀ cell ∈ (renderSource n r (.osc k)).2, CellWithin (m + 65535) cell := by
  obtain ⟨⟨hwf, hlegal, hvoices⟩, hsized, hlib⟩ := hr
  rw [Machine.renderSource]
  split
  · exact fun cell hcell => (h cell hcell).mono (by omega)
  · next o ho =>
    have hmem := List.mem_of_getElem? ho
    obtain ⟨i, hi, -, hsize⟩ := exists_instance_of_poolsSized hsized ho
    have hlength := nvoices_le_of_wellFormed (instanceWellFormed_of_wellFormed hwf hi)
    have hblock := cellWithin_oscBlock hwf hlib (hlegal.1 o hmem) hlegal.2 (hvoices o hmem) h
      (by omega)
    exact fun cell hcell => (hblock cell hcell).mono (by omega)

theorem cellWithin_foldl_renderSource {n m : Nat} {srcs : List Source} {r : State × List Frame}
    (hext : ∀ j, .ext j ∉ srcs) (hr : SourcesBounded r.1) (h : ∀ cell ∈ r.2, CellWithin m cell)
    (hm : m + srcs.length * 65535 ≤ 2 ^ 24) :
    ∀ cell ∈ (srcs.foldl (renderSource n) r).2, CellWithin (m + srcs.length * 65535) cell := by
  induction srcs generalizing m r with
  | nil => simpa using h
  | cons src srcs ih =>
    rw [List.length_cons] at hm ⊢
    cases src with
    | ext j => exact absurd (List.mem_cons_self ..) (hext j)
    | osc k =>
      have hrest := ih (fun j hj => hext j (List.mem_cons_of_mem _ hj)) (hr.renderSource (.osc k))
        (cellWithin_renderSource (n := n) hr h (by omega)) (by omega)
      exact fun cell hcell => (hrest cell hcell).mono (by omega)

/-- REGISTRY names each of at most 255 instances at most once (R4, R5). -/
theorem length_registry_le {c : Config} (hwf : configWellFormed c = true)
    (hext : ∀ j, .ext j ∉ c.registry) : c.registry.length ≤ 255 := by
  obtain ⟨hnosc, -⟩ := bounds_of_wellFormed hwf
  simp only [configWellFormed, Bool.and_eq_true, registryWellFormed_eq_true_iff] at hwf
  obtain ⟨-, ⟨hnodup, hexists⟩, -⟩ := hwf
  have hsub : c.registry ⊆ (List.range c.nosc).map .osc := by
    intro src hsrc
    cases src with
    | osc k => exact List.mem_map_of_mem (List.mem_range.mpr (of_decide_eq_true (hexists _ hsrc)))
    | ext j => exact absurd hsrc (hext j)
  have hlength := (List.subperm_of_subset hnodup hsub).length_le
  rw [List.length_map, List.length_range] at hlength
  exact hlength.trans hnosc

theorem cellWithin_renderSources {n : Nat} {s : State} (hs : SourcesBounded s)
    (hext : ∀ j, .ext j ∉ s.cfg.registry) :
    ∀ cell ∈ (renderSources n s).2, CellWithin (2 ^ 24) cell := by
  have hlength := length_registry_le hs.sound.wellFormed hext
  have hcells := cellWithin_foldl_renderSource (n := n) (r := (s, clearAcc n)) (m := 0) hext hs
    (fun cell hcell => List.eq_of_mem_replicate hcell ▸ cellWithin_zero) (by omega)
  exact fun cell hcell => (hcells cell hcell).mono (by omega)

end Sys2Proof.Machine

namespace Sys2Proof.Proofs
open Machine

/-- Settles O32: each operation keeps bounds that are binary32 values, and a cell after m of at most 2^24
contributions is within m * 2^20, which is one. -/
theorem oscillatorSoundIsFinite : Obligations.OscillatorSoundIsFinite := by
  refine ⟨fun c p volume v hwf hlib hp hvolume he hv => ?_,
    fun s n hwf hlib hlegal hsized he hv hext cell hcell => ?_⟩
  · have hs := finiteIn_sampleOf hwf hlib hp hv
    have hg := finiteIn_voiceGain hvolume he.1 hv
    have hf := finiteIn_frequency hv
    rw [← hlib] at hf
    have hf0 : (0 : ℝ) < val (frequency c.mathLib v.actualNote) :=
      lt_of_lt_of_le (by positivity) hf.2.1
    refine ⟨⟨hf.1, by exact_mod_cast hf0⟩, ⟨hs.1, by exact_mod_cast hs.abs_val_le⟩,
      ⟨hg.1, by exact_mod_cast hg.2.1, ?_⟩,
      fun w hw => (finiteIn_contribution hs hg (panTable_inUnit_of_wellFormed hwf hw)).1⟩
    have htop : (val (voiceGain volume v) : ℝ) ≤ ((404 / 100 * 65536 : ℚ) : ℝ) :=
      hg.2.2.trans (by norm_num)
    exact_mod_cast htop
  · have hvoices : AllVoices SoundBounded s := fun o ho v hmem => ⟨he o ho v hmem, hv o ho v hmem⟩
    have hbounded : SourcesBounded s := ⟨⟨hwf, hlegal, hvoices⟩, hsized, hlib⟩
    have hchannel : ∀ {w : Word}, FiniteIn w (-((2 ^ 24 : Nat) * 2 ^ 20)) ((2 ^ 24 : Nat) * 2 ^ 20) →
        isFinite w = true ∧ |val w| < 2 ^ 47 := fun h =>
      ⟨h.1, by exact_mod_cast h.abs_val_le.trans_lt (by norm_num : _ < (2 : ℝ) ^ 47)⟩
    obtain ⟨hleft, hright⟩ := cellWithin_renderSources hbounded hext cell hcell
    exact ⟨hchannel hleft, hchannel hright⟩

end Sys2Proof.Proofs
end

section
/-!
What an external source adds (R243), and the BLOCK of no frames (R249).
-/
namespace Sys2Proof.Machine

/-! ### External sources (R243) -/

/-- An external block taken from frame f on adds frame f + i of the source to cell i. -/
theorem getElem?_extBlock (s : State) (j n f : Nat) (cells : List Frame) (i : Nat) :
    (extBlock s j n f cells)[i]? = cells[i]?.map fun cell =>
      addFrame cell (extSample s j (f + i) n).left (extSample s j (f + i) n).right := by
  induction cells generalizing f i with
  | nil => rfl
  | cons cell cells ih =>
    cases i with
    | zero => rfl
    | succ i =>
      rw [extBlock, List.getElem?_cons_succ, List.getElem?_cons_succ, ih]
      simp only [Nat.add_right_comm, Nat.add_assoc]

/-- A frame that the stream of source j holds is the one supplied (log entry 8). -/
theorem extSample_of_supplied {s : State} {j f : Nat} {stream : List Frame} {y : Frame}
    (hstream : s.extIn[j]? = some stream) (hy : stream[f]? = some y) (n : Nat) :
    extSample s j f n = y := by
  simp [extSample, hstream, hy]

/-! ### No frames (R249) -/

/-- A source asked for no frames changes nothing. -/
theorem renderSource_zero (s : State) (src : Source) : renderSource 0 (s, []) src = (s, []) := by
  cases src with
  | osc k =>
    rw [renderSource]
    split
    · rfl
    · next o ho =>
      have hoscs : s.oscs.modify k (fun u => { u with voices := o.voices }) = s.oscs := by
        obtain ⟨hk, rfl⟩ := List.getElem?_eq_some_iff.mp ho
        rw [List.modify_eq_set_getElem?, ho]
        exact List.set_getElem_self hk
      simp only [oscBlock, modifyOsc, hoscs]
  | ext j =>
    have hdrop : s.extIn.modify j (List.drop 0) = s.extIn := List.modify_id j s.extIn
    simp only [renderSource, dropExt, extBlock, hdrop]

theorem renderSources_zero (s : State) : renderSources 0 s = (s, []) :=
  renderSources_induction (motive := fun r => r = (s, [])) rfl
    fun _ src _ hr => hr ▸ renderSource_zero s src

/-- The time of no frames is +0.0 (R246). -/
theorem div32_i2f32_zero_sr32 {c : Config} (hwf : configWellFormed c = true) :
    div32 (i2f32 0) (sr32 c) = zero32 := by
  obtain ⟨hfin, hlow, -⟩ := finiteIn_sr32 hwf
  have hzero : i2f32 0 = zero32 := by decide
  rw [hzero]
  exact div32_zero32 hfin (by exact_mod_cast zero_lt_one.trans_le hlow)

theorem renderBlock_zero {s : State} (hwf : configWellFormed s.cfg = true) :
    renderBlock 0#32 s = { s with
      obs := s.obs ++ [.frames []]
      blockTime := add32 s.blockTime zero32
      extSerial := s.extSerial + 1 } := by
  have hcount : s.frameCount + (0#32).zeroExtend 64 = s.frameCount := by simp
  have htime : div32 (i2f32 (0#32).toNat) (sr32 s.cfg) = zero32 := div32_i2f32_zero_sr32 hwf
  have hsources : renderSources (0#32).toNat s = (s, []) := renderSources_zero s
  rw [renderBlock_frame, hcount, htime, hsources]

end Sys2Proof.Machine

namespace Sys2Proof.Proofs
open Machine

/-- Settles O33: cell f gets frame f of the source, which is the supplied one where the stream has one. -/
theorem externalSamplesAreAdded : Obligations.ExternalSamplesAreAdded := by
  intro s j n f acc cell hcell
  refine ⟨length_extBlock .., extSample s j f n, ?_, fun stream y hstream hy =>
    extSample_of_supplied hstream hy n⟩
  rw [getElem?_extBlock, hcell, Nat.zero_add]
  rfl

/-- Settles O28: after the drain the sources are asked for no frames, and the clock gains +0.0. -/
theorem blockZeroOnlyDrains : Obligations.BlockZeroOnlyDrains := by
  intro s ops hwf hsink
  obtain ⟨t, ht⟩ := drain_completes s.fifo { s with pending := ops }
  have hfifo : t.fifo = [] := drain_fifo ht rfl
  have hblock := renderBlock_zero (s := t) (drain_cfg ht ▸ hwf)
  refine ⟨t, renderBlock 0#32 t, ht, ?_, ?_, ?_⟩
  · rw [step_block hwf hsink (Nat.zero_le _), blockStep, ht]
  · rw [hblock]
    exact hfifo
  · rw [hblock]
    rfl

end Sys2Proof.Proofs
end

section
/-!
What PUSH and WRITE leave of the state, and which BLOCK requests the sink is refused (R271, R273, R276).
-/
namespace Sys2Proof.Machine

/-! ### STATUS after a WRITE (R27, R273) -/

/-- The complement of the five sticky bits of d keeps bits 31:5. -/
theorem not_and_low_five (d : Word) :
    ~~~(d &&& 0x0000001F#32) = BitVec.allOnes 27 ++ ~~~(d.extractLsb' 0 5) := by
  have hlow : d &&& 0x0000001F#32 = 0#27 ++ d.extractLsb' 0 5 := by
    apply BitVec.eq_of_toNat_eq
    rw [toNat_append_eq_add, BitVec.toNat_and, BitVec.extractLsb'_toNat]
    simpa using Nat.and_two_pow_sub_one_eq_mod d.toNat 5
  rw [hlow, BitVec.not_append]
  rfl

/-- Clearing sticky bits clears the same bits of STATUS; INERT stays. -/
theorem statusWord_clearSticky (sinkPresent : Bool) (sticky : BitVec 5) (d : Word) :
    statusWord sinkPresent (clearSticky sticky d) =
      statusWord sinkPresent sticky &&& ~~~(d &&& 0x0000001F#32) := by
  rw [not_and_low_five, statusWord, statusWord, BitVec.and_append, BitVec.and_allOnes]
  rfl

theorem memRead_status (s : State) :
    memRead s 0xFF000000#32 = statusWord s.cfg.sinkPresent s.sticky :=
  memRead_global s 0#16 0x00#8

theorem memRead_status_clearErrors (d : Word) (s : State) :
    memRead (clearErrors d s) 0xFF000000#32 =
      memRead s 0xFF000000#32 &&& ~~~(d &&& 0x0000001F#32) := by
  rw [memRead_status, memRead_status, clearErrors_cfg, clearErrors_sticky, statusWord_clearSticky]

section
variable {a : Word} (d : Word) (s : State)

theorem writeStep_of_status (h : addrInst a = globalInst ∧ addrReg a = 0x00#8) :
    writeStep a d s = clearErrors d s := if_pos h

theorem writeStep_of_not_status (h : ¬(addrInst a = globalInst ∧ addrReg a = 0x00#8)) :
    writeStep a d s = s := if_neg h

end

/-! ### PUSH by the room in the FIFO (R271) -/

theorem pushStep_of_room {w : CmdWord} {s : State} (h : s.fifo.length < s.cfg.fifoDepth) :
    pushStep w s = { s with fifo := s.fifo ++ [w] } := if_pos h

theorem pushStep_of_full {w : CmdWord} {s : State} (h : ¬s.fifo.length < s.cfg.fifoDepth) :
    pushStep w s = { s with sticky := s.sticky ||| 0b00001#5 } := if_neg h

/-! ### Refused BLOCK requests (R250, R276) -/

theorem sinkStep_of_no_sink {n : Word} {s : State} (hsink : s.cfg.sinkPresent = false) :
    sinkStep n s = .refused .sinkAbsent := if_pos hsink

theorem sinkStep_of_too_long {n : Word} {s : State} (hsink : s.cfg.sinkPresent = true)
    (hn : s.cfg.maxBlock < n.toNat) : sinkStep n s = .refused .blockTooLong := by
  rw [sinkStep, if_neg (by simp [hsink]), if_pos hn]

end Sys2Proof.Machine

namespace Sys2Proof.Proofs
open Machine

/-- Settles O21: a WRITE is `clearErrors` at the global STATUS address, and nothing at any other. -/
theorem writeClearsNamedStatusBits : Obligations.WriteClearsNamedStatusBits := by
  intro s a d ops hwf
  rw [step_of_pending hwf, portStep]
  by_cases hstatus : addrInst a = globalInst ∧ addrReg a = 0x00#8
  · rw [writeStep_of_status d _ hstatus]
    exact ⟨_, rfl, rfl, fun _ _ => memRead_status_clearErrors d { s with pending := ops },
      fun hother => absurd hstatus hother⟩
  · rw [writeStep_of_not_status d _ hstatus]
    exact ⟨_, rfl, rfl, fun hinst hreg => absurd ⟨hinst, hreg⟩ hstatus, fun _ => rfl⟩

/-- Settles O17, by whether the FIFO has room. -/
theorem pushAppendsOrOverflows : Obligations.PushAppendsOrOverflows := by
  intro s w ops hwf
  rw [step_of_pending hwf, portStep]
  split
  · next hroom => exact congrArg _ (pushStep_of_room (s := { s with pending := ops }) hroom)
  · next hfull => exact congrArg _ (pushStep_of_full (s := { s with pending := ops }) hfull)

/-- Settles O29: `sinkStep` checks for a sink, then for MAX_BLOCK, before it drains. -/
theorem refusedBlockRequests : Obligations.RefusedBlockRequests := by
  intro s n ops hwf
  rw [step_of_pending hwf, portStep]
  exact ⟨sinkStep_of_too_long (s := { s with pending := ops }),
    sinkStep_of_no_sink (s := { s with pending := ops })⟩

end Sys2Proof.Proofs
end

section
/-!
What RESET leaves in every piece of the state (R60, R320).
-/
namespace Sys2Proof.Machine

theorem memRead_status_resetStep (s : State) : memRead (resetStep s) 0xFF000000#32 =
    if s.cfg.sinkPresent then 0x00000000#32 else 0x00000020#32 := by
  rw [memRead_status, resetStep_cfg, resetStep_sticky]
  cases s.cfg.sinkPresent <;> rfl

theorem getElem?_oscs_resetStep (s : State) (k : Nat) :
    (resetStep s).oscs[k]? = s.cfg.instances[k]?.map resetOsc := by
  rw [resetStep_oscs, List.getElem?_map]

/-- A voice of a reset instance is the reset voice of a seed of that instance. -/
theorem getElem?_voices_resetOsc {c : InstConfig} {j : Nat} {v : Voice}
    (h : (resetOsc c).voices[j]? = some v) : c.seeds[j]? = some v.noise ∧ v = resetVoice v.noise := by
  rw [resetOsc, List.getElem?_map, Option.map_eq_some_iff] at h
  obtain ⟨seed, hseed, rfl⟩ := h
  exact ⟨hseed, rfl⟩

end Sys2Proof.Machine

namespace Sys2Proof.Proofs
open Machine

/-- Settles O36: RESET maps the instances of the configuration to `resetOsc`, and their seeds to
`resetVoice`. -/
theorem resetSetsEveryPiece : Obligations.ResetSetsEveryPiece := by
  intro s ops hwf
  rw [step_of_pending hwf, portStep]
  refine ⟨_, rfl, rfl, rfl, rfl, memRead_status_resetStep { s with pending := ops }, rfl, rfl, rfl,
    List.length_map _, ?_⟩
  intro k c o hc ho
  rw [getElem?_oscs_resetStep, hc] at ho
  cases ho
  refine ⟨rfl, List.length_map _, fun j v hv => ?_⟩
  obtain ⟨hseed, hreset⟩ := getElem?_voices_resetOsc hv
  rw [hreset]
  exact ⟨rfl, rfl, hseed, rfl, rfl, rfl, rfl, rfl, rfl⟩

end Sys2Proof.Proofs
end

section
/-!
Rounding keeps the order of sums (R8), and the phases, stages and releases that stop moving at 44100 Hz
(R331 to R333), where dt32 is 0x37BE37C6.
-/
namespace Sys2Proof.Machine

/-! ### Rounding keeps the order (R8) -/

theorem orderKey_packSign {p : Nat} (hp : p < 2 ^ 31) (neg : Bool) :
    orderKey (packSign neg p) = if neg then -(p : Int) else (p : Int) := by
  rw [orderKey, signBit_packSign hp, magBits_packSign hp]

theorem orderKey_roundInt (z : Int) (negZero : Bool) : orderKey (roundInt z negZero) =
    if z < 0 then -(roundUnits z.natAbs 1 : Int) else (roundUnits z.natAbs 1 : Int) := by
  unfold roundInt
  split
  · next h =>
    subst h
    rw [orderKey_packSign (by norm_num), show roundUnits (0 : Int).natAbs 1 = 0 by decide]
    simp
  · rw [orderKey_packSign ((roundUnits_le_infMag _ _).trans_lt infMag_lt)]
    simp only [decide_eq_true_eq]

theorem orderKey_roundInt_mono {y z : Int} (h : y ≤ z) (negZero negZero' : Bool) :
    orderKey (roundInt y negZero) ≤ orderKey (roundInt z negZero') := by
  rw [orderKey_roundInt, orderKey_roundInt]
  split
  · split
    · have := roundUnits_mono (n1 := z.natAbs) (n2 := y.natAbs) one_pos one_pos (by omega)
      omega
    · omega
  · have := roundUnits_mono (n1 := y.natAbs) (n2 := z.natAbs) one_pos one_pos (by omega)
    rw [if_neg (by omega)]
    omega

/-- A sum that is no greater rounds to a value that is no greater. -/
theorem le32_add32 {a b c d : Word} (ha : isFinite a = true) (hb : isFinite b = true)
    (hc : isFinite c = true) (hd : isFinite d = true)
    (h : exactUnits a + exactUnits b ≤ exactUnits c + exactUnits d) :
    le32 (add32 a b) (add32 c d) = true := by
  refine le32_eq_true_iff.mpr ⟨(add32_roundsTo ha hb).isNaN_eq_false,
    (add32_roundsTo hc hd).isNaN_eq_false, ?_⟩
  rw [add32_eq_roundInt ha hb, add32_eq_roundInt hc hd]
  exact orderKey_roundInt_mono h _ _

/-- Off zero a pattern is its order number's sign and magnitude. -/
theorem packSign_orderKey {a : Word} (h0 : isZero a = false) :
    packSign (decide (orderKey a < 0)) (orderKey a).natAbs = a := by
  have hpos : 0 < magBits a := Nat.pos_of_ne_zero (of_decide_eq_false h0)
  have hnonneg : ¬(magBits a : Int) < 0 := by omega
  calc packSign (decide (orderKey a < 0)) (orderKey a).natAbs = packSign (signBit a) (magBits a) := by
        cases h : signBit a <;> simp [orderKey, h, hpos, hnonneg]
    _ = a := packSign_signBit_magBits a

/-- Only the two zeros are different patterns of one value (R7). -/
theorem eq_of_le32_of_le32 {a b : Word} (hab : le32 a b = true) (hba : le32 b a = true)
    (hb0 : isZero b = false) : a = b := by
  obtain ⟨-, -, hle⟩ := le32_eq_true_iff.mp hab
  obtain ⟨-, -, hge⟩ := le32_eq_true_iff.mp hba
  have hkey : orderKey a = orderKey b := le_antisymm hle hge
  have ha0 : isZero a = false := by
    rw [← Bool.not_eq_true, ← val_eq_zero_iff, orderKey_eq_iff.mp hkey, val_eq_zero_iff, hb0]
    exact Bool.false_ne_true
  rw [← packSign_orderKey ha0, hkey, packSign_orderKey hb0]

/-! ### The unit in the last place (R7) -/

theorem unitsOf_add_ulp_le {p q e : Nat} (he : (e + 1) * 2 ^ 23 ≤ p) (hpq : p < q) :
    unitsOf p + 2 ^ e ≤ unitsOf q := by
  obtain ⟨sh, k, hsh, hk23, hk24, rfl⟩ : ∃ sh k, e ≤ sh ∧ 2 ^ 23 ≤ k ∧ k < 2 ^ 24 ∧
      p = sh * 2 ^ 23 + k :=
    ⟨p / 2 ^ 23 - 1, 2 ^ 23 + p % 2 ^ 23, by omega, by omega, by omega, by omega⟩
  calc unitsOf (sh * 2 ^ 23 + k) + 2 ^ e ≤ k * 2 ^ sh + 2 ^ sh := by
        rw [unitsOf_of_significand hk24.le fun _ => hk23]
        exact Nat.add_le_add_left (Nat.pow_le_pow_right two_pos hsh) _
    _ = (k + 1) * 2 ^ sh := by ring
    _ = unitsOf (sh * 2 ^ 23 + (k + 1)) :=
        (unitsOf_of_significand (by omega) fun _ => by omega).symm
    _ ≤ unitsOf q := unitsOf_le_iff.mpr hpq

/-- From 512.0 up a greater value is greater by 2^-14 and more. -/
theorem val_add_ulp_le {a b : Word} (ha : 512 ≤ val a) (hab : val a < val b) :
    val a + 1 / 2 ^ 14 ≤ val b := by
  have hunits : ∀ {c : Word}, 512 ≤ val c → val c = unitsOf (magBits c) / 2 ^ 149 := by
    intro c hc
    rw [val, exactUnits, signBit_of_val_pos (by linarith)]
    rfl
  have hb : 512 ≤ val b := ha.trans hab.le
  rw [hunits ha, hunits hb] at hab ⊢
  rw [hunits ha] at ha
  have hmag : (135 + 1) * 2 ^ 23 ≤ magBits a := by
    rw [← unitsOf_le_iff, show unitsOf ((135 + 1) * 2 ^ 23) = 512 * 2 ^ 149 by decide +kernel]
    rw [le_div_iff₀ (by positivity)] at ha
    exact_mod_cast ha
  rw [div_lt_div_iff_of_pos_right (by positivity), Nat.cast_lt, unitsOf_lt_iff] at hab
  have hulp : (unitsOf (magBits a) : ℚ) + 2 ^ 135 ≤ unitsOf (magBits b) := by
    exact_mod_cast unitsOf_add_ulp_le hmag hab
  linarith

/-! ### dt32 at 44100 Hz (R200, R331 to R333) -/

theorem val_dt44100 : val 0x37BE37C6#32 = 12466118 / 2 ^ 39 := by
  rw [val, show exactUnits 0x37BE37C6#32 = 12466118 * 2 ^ 110 by decide +kernel]
  norm_num

theorem val_512 : val 0x44000000#32 = 512 := by
  rw [val, show exactUnits 0x44000000#32 = 512 * 2 ^ 149 by decide +kernel]
  norm_num

/-- From 512.0 up dt32 is less than half a unit in the last place. -/
theorem add32_dt44100_of_ge_512 {a : Word} (ha : isFinite a = true) (h : 512 ≤ val a) :
    add32 a 0x37BE37C6#32 = a := by
  have hdt := val_dt44100
  obtain ⟨hfin, -⟩ := isTime_add32 (a := a) (b := 0x37BE37C6#32) ⟨ha, by linarith⟩ (by decide +kernel)
  have hround := add32_roundsTo ha (b := 0x37BE37C6#32) (by decide)
  rw [hdt] at hround
  push_cast at hround
  have hle : val a ≤ val (add32 a 0x37BE37C6#32) :=
    hround.le_val hfin ha (le_add_of_nonneg_right (by positivity))
  have hge : val (add32 a 0x37BE37C6#32) ≤ val a := by
    by_contra hlt
    have hulp := Rat.cast_le (K := ℝ) |>.mpr (val_add_ulp_le h (not_le.mp hlt))
    push_cast at hulp
    have hnear := hround.abs_sub_le hfin ha
    rw [abs_of_nonneg (by linarith), abs_of_nonpos (by linarith)] at hnear
    linarith
  have hne : val a ≠ 0 := by linarith
  rw [ne_eq, val_eq_zero_iff, Bool.not_eq_true] at hne
  exact eq_of_le32_of_le32 ((le32_iff hfin ha).mpr hge) ((le32_iff ha hfin).mpr hle) hne

/-- A time up to 512.0 does not pass 512.0, where adding dt32 stops. -/
theorem add32_dt44100_inRange32 {t : Word} (h : inRange32 zero32 0x44000000#32 t = true) :
    inRange32 zero32 0x44000000#32 (add32 t 0x37BE37C6#32) = true := by
  have hdt : isFinite 0x37BE37C6#32 = true := by decide
  have hdt0 : 0 ≤ exactUnits 0x37BE37C6#32 := by decide +kernel
  obtain ⟨ht, hlow, hhigh⟩ := (inRange32_iff_exactUnits (by decide) (by decide)).mp h
  have hzero : isFinite zero32 = true := by decide
  have hzeroUnits : exactUnits zero32 = 0 := by decide
  have hstop : add32 0x44000000#32 0x37BE37C6#32 = 0x44000000#32 :=
    add32_dt44100_of_ge_512 (by decide) val_512.ge
  have hge := le32_add32 hzero hzero ht hdt (by omega)
  have hle := le32_add32 ht hdt (c := 0x44000000#32) (by decide) hdt (by omega)
  rw [show add32 zero32 zero32 = zero32 by decide] at hge
  rw [hstop] at hle
  exact Bool.and_eq_true_iff.mpr ⟨hge, hle⟩

theorem ge32_eq_false_of_le32_of_gt32 {a b c : Word} (hab : le32 a b = true) (hcb : gt32 c b = true) :
    ge32 a c = false := by
  obtain ⟨-, -, hle⟩ := le32_eq_true_iff.mp hab
  simp only [gt32, lt32, Bool.and_eq_true, decide_eq_true_eq] at hcb
  rw [← Bool.not_eq_true, ge32, le32_eq_true_iff]
  rintro ⟨-, -, hge⟩
  omega

/-- Up to the rate 0x3AAC4400 a release step takes at most half the unit below 1.0. -/
theorem mul32_dt44100_inRange32 {rate : Word} (h : inRange32 zero32 0x3AAC4400#32 rate = true) :
    inRange32 zero32 0x33000000#32 (mul32 rate 0x37BE37C6#32) = true := by
  have hmax : val 0x3AAC4400#32 = 11289600 / 2 ^ 33 := by
    rw [val, show exactUnits 0x3AAC4400#32 = 11289600 * 2 ^ 116 by decide +kernel]
    norm_num
  have hhalf : val 0x33000000#32 = 1 / 2 ^ 25 := by
    rw [val, show exactUnits 0x33000000#32 = 2 ^ 124 by decide +kernel]
    norm_num
  obtain ⟨hrate, hlow, hhigh⟩ := (inRange32_iff (by decide) (by decide)).mp h
  rw [val_zero32] at hlow
  rw [hmax] at hhigh
  obtain ⟨hloss0, hlossMax⟩ : val rate * val 0x37BE37C6#32 ∈ Set.Icc 0 (1 / 2 ^ 25) := by
    rw [val_dt44100]
    constructor <;> linarith
  refine (mul32_roundsTo hrate (by decide)).inRange32_of_mem_Icc (by decide) (by decide) ?_
  rw [val_zero32, hhalf]
  exact ⟨by exact_mod_cast hloss0, by exact_mod_cast hlossMax⟩

/-- A loss of half the unit below 1.0 is a tie, which goes back to the even 1.0 (R8). -/
theorem sub32_one32_of_half_ulp {d : Word} (h : inRange32 zero32 0x33000000#32 d = true) :
    sub32 one32 d = one32 := by
  obtain ⟨hd, hlow, hhigh⟩ := (inRange32_iff_exactUnits (by decide) (by decide)).mp h
  have hone : isFinite one32 = true := by decide
  have hnd : isFinite (neg32 d) = true := (isFinite_neg32 d).trans hd
  have hmost := le32_add32 hone (b := neg32 0x33000000#32) (by decide) hone hnd
    (by rw [exactUnits_neg32, exactUnits_neg32]; omega)
  have hleast := le32_add32 hone hnd hone (d := neg32 zero32) (by decide)
    (by rw [exactUnits_neg32, exactUnits_neg32]; omega)
  rw [show add32 one32 (neg32 0x33000000#32) = one32 by decide +kernel] at hmost
  rw [show add32 one32 (neg32 zero32) = one32 by decide +kernel] at hleast
  exact eq_of_le32_of_le32 hleast hmost (by decide)

end Sys2Proof.Machine

namespace Sys2Proof.Proofs
open Machine

/-- Settles O49: from 512.0 up dt32 is less than half a unit in the last place. -/
theorem phaseStopsAt512 : Obligations.PhaseStopsAt512 := fun _ ha hge =>
  add32_dt44100_of_ge_512 ha (val_512 ▸ (ge32_iff ha (by decide)).mp hge)

/-- Settles O48: the stage time stays within 512.0, so it never reaches the length of the DELAY. -/
theorem delayBeyond512NeverEnds : Obligations.DelayBeyond512NeverEnds := by
  intro p v hdelay hstage hge hle
  have hrange := add32_dt44100_inRange32 (Bool.and_eq_true_iff.mpr ⟨hge, hle⟩)
  obtain ⟨hge', hle'⟩ := Bool.and_eq_true_iff.mp hrange
  have htick : tick p 0x37BE37C6#32 v =
      v.setEnvelope .delay (add32 v.stageTime 0x37BE37C6#32) zero32 := by
    rw [tick_eq_tickByStage, tickByStage, hstage]
    dsimp only
    rw [fromDelay, ge32_eq_false_of_le32_of_gt32 hle' hdelay, if_neg Bool.false_ne_true]
  dsimp only
  rw [htick]
  exact ⟨rfl, hge', hle'⟩

/-- Settles O50: the loss of a tick rounds away at volume 1.0. -/
theorem slowReleaseStalls : Obligations.SlowReleaseStalls := by
  intro p v hpos hle hstage hvolume
  have hrate : inRange32 zero32 0x3AAC4400#32 p.release = true :=
    Bool.and_eq_true_iff.mpr ⟨le32_of_lt32 hpos, hle⟩
  have hleft : releasedVolume p 0x37BE37C6#32 v = one32 := by
    rw [releasedVolume, hvolume]
    exact sub32_one32_of_half_ulp (mul32_dt44100_inRange32 hrate)
  have hlives : ¬(eq32 p.release zero32 = true ∨ le32 one32 zero32 = true) := by
    rw [eq32_zero32_of_pos hpos]
    decide
  rw [tick_eq_tickByStage, tickByStage, hstage]
  dsimp only
  rw [fromRelease, hleft, if_neg hlives]
  exact ⟨rfl, rfl⟩

end Sys2Proof.Proofs
end
